-- ==== Sys2Proof/Word.lean ====
section
/-! DEFINITION. The unit of every transfer (spec/20_memory.md R31): the 8-bit unsigned byte. -/

namespace Sys2Proof

/-- A byte, an unsigned number 0 to 255 (spec/00_scope.md R9). -/
abbrev Byte := BitVec 8

end Sys2Proof
end

