-- ==== Sys2Proof/Syntax.lean ====
section
/-! DEFINITION. The block's operations as data: one constructor of Instr for every row of spec/opcode_table.json, and
the value types their operands have (spec/00_scope.md R9, spec/30_encoding.md R58, R61, R62). -/

namespace Sys2Proof

/-- The seven decoder states (spec/10_state.md R10). -/
inductive DState where
  | sync1 | sync2 | cmd | len | data | crc1 | crc2
  deriving DecidableEq, Repr, Inhabited

/-- What selects a decoder arc before the input byte is looked at (spec/30_encoding.md R58): the decoder state and, in
DATA only, whether idx + 1 = len. -/
inductive Slot where
  | sync1 | sync2 | cmd | len | dataMore | dataLast | crc1 | crc2
  deriving DecidableEq, Repr, Inhabited

/-- One protocol unit (spec/00_scope.md R9). It crosses the block's boundary as this triple (spec/30_encoding.md R63). -/
structure Message where
  command : Byte
  length  : Byte
  payload : List Byte
  deriving DecidableEq, Repr, Inhabited

/-- A callback as plain data: its name. What the callback does when called is what the agent .observer then does
(DESIGN CHOICE, safe, log 4). -/
abbrev CallbackId := Nat

/-- Who performs an operation (spec/00_scope.md R6); there may be several caller threads, and the observer runs in the
pump's thread while the pump waits for it (spec/60_exceptions.md R159). -/
inductive Agent where
  | pump
  | caller (thread : Nat)
  | observer
  | rxSide
  | txSide
  deriving DecidableEq, Repr, Inhabited

/-- One constructor per row of spec/opcode_table.json. An arc whose byte the row fixes has no operand. -/
inductive Instr where
  -- format RXB: the decoder arcs (spec/40_decoder.md R71 to R81)
  | dS1Hit
  | dS1Miss (b : Byte)
  | dS2Hit
  | dS2Miss (b : Byte)
  | dCmd (b : Byte)
  | dLenZ
  | dLenNz (b : Byte)
  | dDataMore (b : Byte)
  | dDataLast (b : Byte)
  | dCrc1 (b : Byte)
  | dCrc2 (b : Byte)
  -- format FRAME: the encoder (spec/41_encoder.md R100)
  | eEncode (m : Message)
  -- format OP: the interface operations (spec/42_transport.md, spec/60_exceptions.md)
  | tRxDeliver (bs : List Byte)
  | tRxError
  | pRxConsume
  | tTxDrain (k : Nat)
  | hStart (transportId : String) (baudRate : Int)
  | hSetObs (cb : CallbackId)
  | hSend (m : Message)
  | hStop
  -- format CMDID: the listed values of the COMMAND byte (spec/30_encoding.md R53)
  | cmdidFirmwareVersion
  | cmdidHardwareVersion
  | cmdidSetTime
  | cmdidGetTime
  | cmdidCpuTemp
  | cmdidTemperature
  | cmdidSetLogInterval
  | cmdidGetLogInterval
  | cmdidStreamLogs
  | cmdidStartNewLog
  deriving DecidableEq, Repr

end Sys2Proof
end

