-- ==== Sys2Proof/Config.lean ====
section
/-! DEFINITION. The constants the source fixes (spec/00_scope.md R3), the parameters the spec decides (R4), the open
parameters, and the free values. A free value is an opaque constant: nothing can be proved of what it is. -/

namespace Sys2Proof.Config

/-- SYNC, the byte that appears twice to open every frame (R3). -/
def sync : Byte := 0x7E#8

/-- TRAILER_FILL, the value written into each trailer byte (R3). -/
def trailerFill : Byte := 0x00#8

/-- LEN_MAX (R3). -/
def lenMax : Nat := 255

/-- HEADER_BYTES: two SYNC, COMMAND, LENGTH (R3). -/
def headerBytes : Nat := 4

/-- TRAILER_BYTES (R3). -/
def trailerBytes : Nat := 2

/-- FRAME_MIN (R3). -/
def frameMin : Nat := headerBytes + trailerBytes

/-- FRAME_MAX (R3). -/
def frameMax : Nat := frameMin + lenMax

/-- BAUD_DEFAULT, which no rule depends on (R3, spec/42_transport.md R126). -/
def baudDefault : Int := 115200

/-- RDERR_LIMIT: consecutive failed reads that count as connection loss (R4, decision D15). -/
def rdErrLimit : Nat := 3

/-- FRESH_CMD: the command of a freshly allocated message (R4, decision D5). -/
def freshCmd : Byte := 0x00#8

/-- The open part of RX_DEPTH; none is unbounded (R4, decision D2, log 11). -/
opaque rxDepthOpen : Option Nat

/-- RX_DEPTH: a natural number at least 1, or unbounded (R4). -/
def rxDepth : Option Nat := rxDepthOpen.map (max 1)

/-- The open part of TX_DEPTH; none is unbounded (R4, decision D3, log 11). -/
opaque txDepthOpen : Option Nat

/-- TX_DEPTH: a natural number at least 261, the longest frame, or unbounded (R4, spec/42_transport.md R125). -/
def txDepth : Option Nat := txDepthOpen.map (max frameMax)

/-- FREE VALUE: which agent moves next when the schedule held in State is used up (R6, log 6). -/
opaque freeAgent : Nat → Agent

/-- FREE VALUE: the number a draw picks (before it is brought into the draw's range) when the list of choices held in
State is used up (R8, log 5). -/
opaque freeDraw : Nat → Nat

/-- FREE VALUES: what the decoder's registers hold once H.STOP has discarded them (spec/42_transport.md R129, log 9). -/
opaque discardedState : Nat → DState

/-- FREE VALUE: the cmd, len and idx registers after H.STOP (log 9). -/
opaque discardedByte : Nat → Byte

/-- FREE VALUE: the payload sequence after H.STOP (log 9). -/
opaque discardedPay : Nat → List Byte

end Sys2Proof.Config
end

