-- ==== Sys2Proof/Machine/State.lean ====
section
/-! DEFINITION. The state of one instance of the block (spec/10_state.md section 1), the records of what it handed to its
surroundings, the model's inputs, and the state after construction (R25). -/

namespace Sys2Proof.Machine

/-- The decoder's registers (spec/40_decoder.md R70): the sequencing register and the message accumulator. -/
structure Dec where
  dstate : DState
  cmd    : Byte
  len    : Byte
  idx    : Byte
  pay    : List Byte
  deriving DecidableEq, Repr, Inhabited

/-- init: the decoder right after construction (spec/10_state.md R25, decisions D4 and D5). -/
def Dec.init : Dec := { dstate := .sync1, cmd := Config.freshCmd, len := 0x00#8, idx := 0x00#8, pay := [] }

/-- One invocation of the observer: whom, and with which message (spec/60_exceptions.md R159). -/
structure Call where
  observer : CallbackId
  msg      : Message
  deriving DecidableEq, Repr

/-- A stop in progress: who stops, and how many residual consume steps are still to be performed (spec/42_transport.md
R129, log 8). -/
structure Stop where
  who  : Agent
  left : Nat
  deriving DecidableEq, Repr

/-- The three errors (spec/60_exceptions.md R151). -/
inductive TransportError where
  | unavailable
  | writeError
  | readError
  deriving DecidableEq, Repr

/-- An error raised synchronously to the agent whose operation caused it (spec/60_exceptions.md R155). -/
structure Raised where
  who : Agent
  err : TransportError
  deriving DecidableEq, Repr

/-- What the block has handed to its surroundings, oldest first: records of the environment, not state of the block
(DESIGN CHOICE, safe, log 10). -/
structure Outputs where
  /-- the bytes put on the wire (spec/42_transport.md R128) -/
  wire   : List Byte
  /-- the observer calls made (spec/60_exceptions.md R159) -/
  calls  : List Call
  /-- the errors raised (spec/60_exceptions.md R152, R153) -/
  raised : List Raised
  /-- the identifiers and rates H.START handed to the transport (spec/42_transport.md R121, R126) -/
  opened : List (String × Int)
  /-- what the last E.ENCODE returned (spec/41_encoder.md R100) -/
  frame  : List Byte
  deriving DecidableEq, Repr

/-- What an agent is going to do next: an operation, or (the observer only) return (spec/60_exceptions.md R160). -/
inductive Action where
  | op (i : Instr)
  | obsReturn
  deriving DecidableEq, Repr

/-- An action an agent has asked for and not yet performed. -/
structure Request where
  agent : Agent
  act   : Action
  deriving DecidableEq, Repr

/-- The model's inputs (DESIGN CHOICE, safe, logs 5, 6, 17): plain data that says what the environment does. -/
structure Inputs where
  /-- which agents move next (spec/00_scope.md R6) -/
  sched   : List Agent
  /-- what each agent does next: an agent performs its own requests in this list's order (spec/30_encoding.md R61) -/
  pending : List Request
  /-- what the next draws pick (spec/00_scope.md R8) -/
  choices : List Nat
  /-- how many free values have been used -/
  drawn   : Nat
  deriving DecidableEq, Repr

/-- The whole state. The fields up to linkLost are those of spec/10_state.md section 1. -/
structure State where
  dec      : Dec
  run      : Bool
  dead     : Bool
  obs      : Option CallbackId
  rxq      : List Byte
  txq      : List Byte
  /-- free (none) or held by one send (R22) -/
  wlock    : Option Agent
  rderr    : Nat
  linkLost : Bool
  /-- the observer invocation in progress (spec/42_transport.md R118, spec/60_exceptions.md R160, log 3) -/
  obsRun   : Option Call
  /-- the stop whose residual consume steps an observer invocation holds up (spec/42_transport.md R129, log 8) -/
  stopping : Option Stop
  out      : Outputs
  /-- the agent performing the current operation (the model's own, log 27) -/
  turn     : Agent
  env      : Inputs
  deriving DecidableEq, Repr

/-- The block never faults: "No input byte and no message can make the block fault" (spec/60_exceptions.md R150), and
the three transport errors are raised to the caller in a next state. So there is no fault to name (log 30). -/
inductive Fault where
  deriving DecidableEq, Repr

/-- Why the model gives a request no meaning (spec/00_scope.md R8, refuse). -/
inductive Refusal where
  /-- raised by Machine/Dispatch.lean's arm of an operation that has no meaning yet; safe -/
  | notModelled (mnemonic : String)
  /-- raised by a decoder arc (and a CMDID row) in a state, or with a byte, that selects another arc
  (spec/30_encoding.md R58); safe -/
  | arcNotSelected
  /-- raised by E.ENCODE and H.SEND of a message with length ≠ |payload| (spec/41_encoder.md R102); safe -/
  | illFormedMessage
  /-- raised by T.TX.DRAIN 0, whose operand is outside 1 .. |txq| (spec/42_transport.md R128); safe -/
  | drainOfNothing
  /-- raised by H.START while run = 1 (spec/42_transport.md R130); safe -/
  | alreadyRunning
  /-- raised by H.START, H.SEND and H.STOP while dead = 1 (spec/10_state.md R18, spec/42_transport.md R130); safe -/
  | deadInstance
  /-- raised by H.SEND and H.STOP while run = 0 (spec/42_transport.md R130); safe -/
  | notRunning
  /-- raised by H.START and H.STOP from inside the observer (spec/42_transport.md R130); safe -/
  | insideObserver
  /-- raised by the step when an agent asks for an operation it does not have (spec/42_transport.md R115,
  spec/60_exceptions.md R161); safe -/
  | notPermitted
  deriving DecidableEq, Repr

/-- The outcome of an operation or a step. -/
abbrev Result := Host.Outcome State Fault Refusal

/-- Right after construction (spec/10_state.md R25, spec/70_reset_and_hazards.md R170 (1)); the output records and the
model's inputs are empty (log 10, 27). -/
def State.reset : State where
  dec := Dec.init
  run := false
  dead := false
  obs := none
  rxq := []
  txq := []
  wlock := none
  rderr := 0
  linkLost := false
  obsRun := none
  stopping := none
  out := { wire := [], calls := [], raised := [], opened := [], frame := [] }
  turn := .pump
  env := { sched := [], pending := [], choices := [], drawn := 0 }

end Sys2Proof.Machine
end

