-- ==== Sys2Proof/Machine/Flags.lean ====
section
/-! DEFINITION. The block's flags and counters: run, dead, rderr, link_lost (spec/10_state.md R18, R23,
spec/60_exceptions.md R154). There are no condition codes. -/

namespace Sys2Proof.Machine

/-- rderr after one more failed read: it saturates at RDERR_LIMIT (spec/60_exceptions.md R154). -/
def rdErrNext (n : Nat) : Nat := min (n + 1) Config.rdErrLimit

/-- link_lost after a failed read that leaves rderr at n: set once the limit is reached, and sticky (R154). -/
def linkLostNext (old : Bool) (n : Nat) : Bool := old || decide (Config.rdErrLimit ≤ n)

/-- link_lost as the caller reads it: at any time, with no side effect (R154). -/
def State.readLinkLost (s : State) : Bool := s.linkLost

/-- A failed read: only rderr and link_lost change (R154). -/
def State.failRead (s : State) : State :=
  { s with rderr := rdErrNext s.rderr, linkLost := linkLostNext s.linkLost (rdErrNext s.rderr) }

/-- A successful read, empty or not: rderr is cleared (spec/42_transport.md R116, spec/20_memory.md R47). -/
def State.okRead (s : State) : State := { s with rderr := 0 }

end Sys2Proof.Machine
end

