-- ==== Sys2Proof/WellFormed.lean ====
section
/-! DEFINITION. Which operands an operation may have, as the spec's operand lines say. -/

namespace Sys2Proof

/-- wf(m): the length field counts the payload (spec/00_scope.md R9). A payload over 255 bytes never passes. -/
def Message.wf (m : Message) : Bool := m.length.toNat == m.payload.length

/-- The operand conditions that do not depend on the state: the byte conditions of the dispatch table
(spec/30_encoding.md R58), wf(m) for E.ENCODE and H.SEND (spec/41_encoder.md R102, spec/42_transport.md R124), and
1 ≤ k for T.TX.DRAIN (R128). -/
def Instr.wf : Instr → Bool
  | .dS1Hit => true
  | .dS1Miss b => b != Config.sync
  | .dS2Hit => true
  | .dS2Miss b => b != Config.sync
  | .dCmd _ => true
  | .dLenZ => true
  | .dLenNz b => b != 0x00#8
  | .dDataMore _ => true
  | .dDataLast _ => true
  | .dCrc1 _ => true
  | .dCrc2 _ => true
  | .eEncode m => m.wf
  | .tRxDeliver _ => true
  | .tRxError => true
  | .pRxConsume => true
  | .tTxDrain k => decide (1 ≤ k)
  | .hStart _ _ => true
  | .hSetObs _ => true
  | .hSend m => m.wf
  | .hStop => true
  | .cmdidFirmwareVersion => true
  | .cmdidHardwareVersion => true
  | .cmdidSetTime => true
  | .cmdidGetTime => true
  | .cmdidCpuTemp => true
  | .cmdidTemperature => true
  | .cmdidSetLogInterval => true
  | .cmdidGetLogInterval => true
  | .cmdidStreamLogs => true
  | .cmdidStartNewLog => true

end Sys2Proof
end

