-- ==== Sys2Proof/Decode.lean ====
section
/-! DEFINITION. From bits to an operation (spec/30_encoding.md R50, R53, R58, R62) and back. Three of the four formats of
the opcode table have bits: RXB (a received byte, read in the state that selects the arc), FRAME (the encoder's frame)
and CMDID (a COMMAND byte). The rows of format OP have no bit pattern (R62), so they have neither words nor a decoding. -/

namespace Sys2Proof

/-- The 3-bit numbers of the decoder states, not observable at any interface (spec/10_state.md R11). -/
def DState.code : DState → BitVec 3
  | .sync1 => 0
  | .sync2 => 1
  | .cmd => 2
  | .len => 3
  | .data => 4
  | .crc1 => 5
  | .crc2 => 6

/-- Why bits are no operation. -/
inductive DecodeError where
  /-- there are no bytes -/
  | empty
  /-- the first two bytes are not SYNC SYNC (R51) -/
  | noPreamble
  /-- fewer bytes than the frame's 6 + L (R50) -/
  | truncated
  /-- the trailer bytes are not TRAILER_FILL: not the frame the encoder writes (R56) -/
  | trailer
  /-- bytes follow the frame -/
  | overlong
  /-- the COMMAND byte has no listed name (R53) -/
  | notListed
  deriving DecidableEq, Repr

/-- The bits of an operation, by the table's format (R62). -/
inductive Code where
  | rxb (slot : Slot) (b : Byte)
  | frame (bs : List Byte)
  | cmdid (b : Byte)
  deriving DecidableEq, Repr

/-- The dispatch table (R58): every slot and byte select exactly one arc. -/
def decodeRxb : Slot → Byte → Instr
  | .sync1, b => if b = Config.sync then .dS1Hit else .dS1Miss b
  | .sync2, b => if b = Config.sync then .dS2Hit else .dS2Miss b
  | .cmd, b => .dCmd b
  | .len, b => if b = 0x00#8 then .dLenZ else .dLenNz b
  | .dataMore, b => .dDataMore b
  | .dataLast, b => .dDataLast b
  | .crc1, b => .dCrc1 b
  | .crc2, b => .dCrc2 b

/-- The listed values of the COMMAND byte (R53). -/
def decodeCmdid (b : Byte) : Except DecodeError Instr :=
  match b.toNat with
  | 0x01 => .ok .cmdidFirmwareVersion
  | 0x02 => .ok .cmdidHardwareVersion
  | 0x03 => .ok .cmdidSetTime
  | 0x04 => .ok .cmdidGetTime
  | 0x05 => .ok .cmdidCpuTemp
  | 0x06 => .ok .cmdidTemperature
  | 0x07 => .ok .cmdidSetLogInterval
  | 0x08 => .ok .cmdidGetLogInterval
  | 0x09 => .ok .cmdidStreamLogs
  | 0x0A => .ok .cmdidStartNewLog
  | _ => .error .notListed

/-- Payload and trailer of a frame whose header has been read (R50): the operation and the bytes after the frame. -/
def decodeFrameBody (c l : Byte) (rest : List Byte) : Except DecodeError (Instr × List Byte) :=
  match rest.drop l.toNat with
  | t0 :: t1 :: tail =>
    if t0 = Config.trailerFill ∧ t1 = Config.trailerFill then
      .ok (.eEncode ⟨c, l, rest.take l.toNat⟩, tail)
    else .error .trailer
  | _ => .error .truncated

/-- The frame pattern of the row E.ENCODE (R50): SYNC SYNC COMMAND LENGTH, LENGTH payload bytes, TRAILER_FILL twice. -/
def decodeFrame : List Byte → Except DecodeError (Instr × List Byte)
  | s0 :: s1 :: c :: l :: rest =>
    if s0 = Config.sync ∧ s1 = Config.sync then decodeFrameBody c l rest else .error .noPreamble
  | [] => .error .empty
  | _ => .error .truncated

/-- The decoder: total, and it rejects by name. -/
def decode : Code → Except DecodeError Instr
  | .rxb slot b => .ok (decodeRxb slot b)
  | .frame bs =>
    match decodeFrame bs with
    | .ok (i, []) => .ok i
    | .ok (_, _ :: _) => .error .overlong
    | .error e => .error e
  | .cmdid b => decodeCmdid b

/-- The frame of the row E.ENCODE, field by field from the layout of R50. -/
def frameOf (m : Message) : List Byte :=
  [Config.sync, Config.sync, m.command, m.length] ++ m.payload ++ [Config.trailerFill, Config.trailerFill]

/-- The encoder of operations: the bits of a well-formed operation whose format has bits (R58, R50, R53); none for the
rows of format OP (R62). -/
def encode : Instr → Option Code
  | .dS1Hit => some (.rxb .sync1 Config.sync)
  | .dS1Miss b => some (.rxb .sync1 b)
  | .dS2Hit => some (.rxb .sync2 Config.sync)
  | .dS2Miss b => some (.rxb .sync2 b)
  | .dCmd b => some (.rxb .cmd b)
  | .dLenZ => some (.rxb .len 0x00#8)
  | .dLenNz b => some (.rxb .len b)
  | .dDataMore b => some (.rxb .dataMore b)
  | .dDataLast b => some (.rxb .dataLast b)
  | .dCrc1 b => some (.rxb .crc1 b)
  | .dCrc2 b => some (.rxb .crc2 b)
  | .eEncode m => some (.frame (frameOf m))
  | .tRxDeliver _ => none
  | .tRxError => none
  | .pRxConsume => none
  | .tTxDrain _ => none
  | .hStart _ _ => none
  | .hSetObs _ => none
  | .hSend _ => none
  | .hStop => none
  | .cmdidFirmwareVersion => some (.cmdid 0x01#8)
  | .cmdidHardwareVersion => some (.cmdid 0x02#8)
  | .cmdidSetTime => some (.cmdid 0x03#8)
  | .cmdidGetTime => some (.cmdid 0x04#8)
  | .cmdidCpuTemp => some (.cmdid 0x05#8)
  | .cmdidTemperature => some (.cmdid 0x06#8)
  | .cmdidSetLogInterval => some (.cmdid 0x07#8)
  | .cmdidGetLogInterval => some (.cmdid 0x08#8)
  | .cmdidStreamLogs => some (.cmdid 0x09#8)
  | .cmdidStartNewLog => some (.cmdid 0x0A#8)

/-- A lone byte read by the opcode table alone, with no decoder state to select the arc: the rows with a full mask first
(D.S1.HIT for 0x7E, D.LEN.Z for 0x00, the CMDID rows for 0x01 to 0x0A), else the first row with an empty mask,
D.S1.MISS (DESIGN CHOICE, log 16: the row D.S2.HIT has the same bits as D.S1.HIT). -/
def decodeLoneByte (b : Byte) : Instr :=
  if b = Config.sync then .dS1Hit
  else if b = 0x00#8 then .dLenZ
  else
    match decodeCmdid b with
    | .ok i => i
    | .error _ => .dS1Miss b

/-- Byte i of a table word: bit 0 is the least significant bit of the first byte; bits from nbits on are 0. -/
def tableByte (nbits w i : Nat) : Byte := BitVec.ofNat 8 ((w % 2 ^ nbits) / 2 ^ (8 * i))

/-- The bytes of a table word as the stream carries them, first byte first, filled up with zeros to FRAME_MAX. -/
def tableBytes (nbits w : Nat) : List Byte := (List.range Config.frameMax).map (tableByte nbits w)

/-- The operation the decoder reads from a table word: one byte is a byte of format RXB or CMDID, more are a frame. -/
def decodeTableWord (nbits w : Nat) : Option Instr :=
  if nbits = 0 then none
  else if nbits ≤ 8 then some (decodeLoneByte (tableByte nbits w 0))
  else
    match decodeFrame (tableBytes nbits w) with
    | .ok (i, _) => some i
    | .error _ => none

end Sys2Proof
end

