-- ==== Sys2Proof/Machine/Operands.lean ====
section
/-! DEFINITION. The conditions operations read from the state: the slot the decoder is in, room in the two queues, and
the draws (spec/00_scope.md R8). -/

namespace Sys2Proof.Machine

/-- idx + 1 = len, evaluated on values widened to 9 bits (spec/10_state.md R15, spec/40_decoder.md R78, R79). -/
def Dec.lastByte (d : Dec) : Bool := d.idx.setWidth 9 + 1#9 == d.len.setWidth 9

/-- The slot that the decoder's registers select (spec/30_encoding.md R58). -/
def Dec.slot (d : Dec) : Slot :=
  match d.dstate with
  | .sync1 => .sync1
  | .sync2 => .sync2
  | .cmd => .cmd
  | .len => .len
  | .data => if d.lastByte then .dataLast else .dataMore
  | .crc1 => .crc1
  | .crc2 => .crc2

/-- n bytes fit a queue of this depth; an unbounded queue takes any number. -/
def fits (depth : Option Nat) (n : Nat) : Bool :=
  match depth with
  | none => true
  | some d => decide (n ≤ d)

/-- rxq has room for k more bytes (spec/42_transport.md R116). -/
def State.rxRoom (s : State) (k : Nat) : Bool := fits Config.rxDepth (s.rxq.length + k)

/-- txq has room for k more bytes (spec/42_transport.md R125). -/
def State.txRoom (s : State) (k : Nat) : Bool := fits Config.txDepth (s.txq.length + k)

/-- The number the next draw in 0 .. bound picks (spec/00_scope.md R8): the next of the choices, or a free value when
they are used up (log 5). -/
def Inputs.pick (e : Inputs) (bound : Nat) : Nat :=
  match e.choices with
  | c :: _ => c % (bound + 1)
  | [] => Config.freeDraw e.drawn % (bound + 1)

/-- The inputs after a draw: the choice, or the free value, is used. -/
def Inputs.used (e : Inputs) : Inputs :=
  match e.choices with
  | _ :: cs => { e with choices := cs }
  | [] => { e with drawn := e.drawn + 1 }

/-- draw x in 0 .. bound: the number (spec/00_scope.md R8). -/
def State.drawn (s : State) (bound : Nat) : Nat := s.env.pick bound

/-- draw x in 0 .. bound: the state after it. -/
def State.afterDraw (s : State) : State := { s with env := s.env.used }

end Sys2Proof.Machine
end

