-- ==== Sys2Proof/Machine/Ops.lean ====
section
/-! DEFINITION. The operations that the meanings share: waiting, raising an error, the entry to the observer and the
return from it (spec/60_exceptions.md R159, R160), resetting and discarding the connection's state, and taking turns. -/

namespace Sys2Proof.Machine

/-- The operation is not enabled: it stays the next request of the agent that asked for it, and nothing else changes
(spec/42_transport.md R116, R118, R125, log 7). -/
def State.wait (s : State) (i : Instr) : State :=
  { s with env := { s.env with pending := { agent := s.turn, act := .op i } :: s.env.pending } }

/-- raise: the error goes to the agent performing the operation (spec/60_exceptions.md R155). -/
def State.raise (s : State) (e : TransportError) : State :=
  { s with out := { s.out with raised := s.out.raised ++ [{ who := s.turn, err := e }] } }

/-- ENTRY, deliver(out): the one observer is called with the message, by value; with no observer the message is discarded
(spec/60_exceptions.md R157, R159). Nothing is saved and no mode changes; the pump waits in obsRun. -/
def State.deliver (s : State) (m : Message) : State :=
  match s.obs with
  | none => s
  | some f =>
    { s with
      obsRun := some { observer := f, msg := m }
      out := { s.out with calls := s.out.calls ++ [{ observer := f, msg := m }] } }

/-- RETURN from the observer: the pump may go on; nothing is restored because nothing was saved (R160). -/
def State.obsReturn (s : State) : State := { s with obsRun := none }

/-- What a connection starts with (spec/42_transport.md R121, spec/10_state.md R25): the decoder's reset values and empty
queues, the write lock free. -/
def State.freshConnection (s : State) : State :=
  { s with dec := Dec.init, rxq := [], txq := [], wlock := none }

/-- What the decoder's registers hold after they have been discarded: free values (spec/42_transport.md R129, log 9). -/
def discardedDec (n : Nat) : Dec :=
  { dstate := Config.discardedState n
    cmd := Config.discardedByte n
    len := Config.discardedByte (n + 1)
    idx := Config.discardedByte (n + 2)
    pay := Config.discardedPay n }

/-- The decoder state is discarded (spec/42_transport.md R129); three free bytes are used. -/
def State.discardDec (s : State) : State :=
  { s with dec := discardedDec s.env.drawn, env := { s.env with drawn := s.env.drawn + 3 } }

/-- k bytes go from the head of txq to the wire, in order (spec/42_transport.md R128). -/
def State.drain (s : State) (k : Nat) : State :=
  { s with txq := s.txq.drop k, out := { s.out with wire := s.out.wire ++ s.txq.take k } }

/-- Whose turn it is: the schedule's next agent, or a free value when the schedule is used up (spec/00_scope.md R6,
log 6). -/
def State.nextTurn (s : State) : State :=
  match s.env.sched with
  | a :: rest => { s with turn := a, env := { s.env with sched := rest } }
  | [] => { s with turn := Config.freeAgent s.env.drawn, env := { s.env with drawn := s.env.drawn + 1 } }

/-- Whether the agent whose turn it is can move: the pump runs only while run = 1 and not while it waits for the observer
(spec/42_transport.md R118, R119), and what it still consumes during a stop are the steps of the stop (R129, log 8); the
observer's code runs only during an invocation (spec/60_exceptions.md R159). -/
def State.canAct (s : State) : Bool :=
  match s.turn with
  | .pump => s.run && s.obsRun.isNone && s.stopping.isNone
  | .observer => s.obsRun.isSome
  | .caller _ => true
  | .rxSide => true
  | .txSide => true

/-- An agent's first request, and the requests without it. -/
def takeRequest (a : Agent) : List Request → Option (Action × List Request)
  | [] => none
  | r :: rest =>
    if r.agent = a then some (r.act, rest)
    else (takeRequest a rest).map fun p => (p.1, r :: p.2)

/-- A caller thread, or the observer: the agents that may use the block's host operations (spec/42_transport.md R123,
R124, spec/60_exceptions.md R160). -/
def Agent.isClient : Agent → Bool
  | .caller _ => true
  | .observer => true
  | .pump => false
  | .rxSide => false
  | .txSide => false

/-- Which agent has which operation (spec/00_scope.md R6, spec/42_transport.md R115, the agent column of the opcode
table; log 19). The arcs and the COMMAND values are nobody's request: the pump reaches them by consuming a byte. -/
def issuedBy (i : Instr) (a : Agent) : Bool :=
  match i with
  | .dS1Hit => false
  | .dS1Miss _ => false
  | .dS2Hit => false
  | .dS2Miss _ => false
  | .dCmd _ => false
  | .dLenZ => false
  | .dLenNz _ => false
  | .dDataMore _ => false
  | .dDataLast _ => false
  | .dCrc1 _ => false
  | .dCrc2 _ => false
  | .eEncode _ => Agent.isClient a
  | .tRxDeliver _ => a == .rxSide
  | .tRxError => a == .rxSide
  | .pRxConsume => a == .pump
  | .tTxDrain _ => a == .txSide
  | .hStart _ _ => Agent.isClient a
  | .hSetObs _ => Agent.isClient a
  | .hSend _ => Agent.isClient a
  | .hStop => Agent.isClient a
  | .cmdidFirmwareVersion => false
  | .cmdidHardwareVersion => false
  | .cmdidSetTime => false
  | .cmdidGetTime => false
  | .cmdidCpuTemp => false
  | .cmdidTemperature => false
  | .cmdidSetLogInterval => false
  | .cmdidGetLogInterval => false
  | .cmdidStreamLogs => false
  | .cmdidStartNewLog => false

end Sys2Proof.Machine
end

