-- ==== Sys2Proof/Machine/Decoder.lean ====
section
/-! DEFINITION. The frame decoder (spec/40_decoder.md): one pure function per arc, the step function made of them
(R70), running it over a sequence (R82), and the meaning of each arc as an operation on the block. -/

namespace Sys2Proof.Machine

/-- R71. -/
def Dec.s1Hit (d : Dec) : Dec := { d with dstate := .sync2 }

/-- R72. -/
def Dec.s1Miss (d : Dec) : Dec := { d with dstate := .sync1 }

/-- R73. -/
def Dec.s2Hit (d : Dec) : Dec := { d with dstate := .cmd }

/-- R74. -/
def Dec.s2Miss (d : Dec) : Dec := { d with dstate := .sync1 }

/-- R75. -/
def Dec.takeCmd (d : Dec) (b : Byte) : Dec := { d with cmd := b, dstate := .len }

/-- R76. -/
def Dec.lenZ (d : Dec) : Dec := { d with len := 0x00#8, idx := 0x00#8, dstate := .crc1 }

/-- R77. -/
def Dec.lenNz (d : Dec) (b : Byte) : Dec := { d with len := b, idx := 0x00#8, pay := [], dstate := .data }

/-- R78; idx + 1 wraps modulo 256 in states that break R17 (R83). -/
def Dec.dataMore (d : Dec) (b : Byte) : Dec := { d with pay := d.pay ++ [b], idx := d.idx + 1#8, dstate := .data }

/-- R79. -/
def Dec.dataLast (d : Dec) (b : Byte) : Dec := { d with pay := d.pay ++ [b], idx := d.idx + 1#8, dstate := .crc1 }

/-- R80. -/
def Dec.crc1 (d : Dec) : Dec := { d with dstate := .crc2 }

/-- R81, the registers: a fresh message; idx is not written. -/
def Dec.crc2 (d : Dec) : Dec :=
  { d with cmd := Config.freshCmd, len := 0x00#8, pay := [], dstate := .sync1 }

/-- R81, the output: the completed message, by value. -/
def Dec.completed (d : Dec) : Message := { command := d.cmd, length := d.len, payload := d.pay }

/-- dec_step (R70): a pure function of the decoder's registers and the byte; the arc is the one that the dispatch table
selects (spec/30_encoding.md R58). -/
def decStep (d : Dec) (b : Byte) : Dec × Option Message :=
  match d.slot with
  | .sync1 => if b = Config.sync then (d.s1Hit, none) else (d.s1Miss, none)
  | .sync2 => if b = Config.sync then (d.s2Hit, none) else (d.s2Miss, none)
  | .cmd => (d.takeCmd b, none)
  | .len => if b = 0x00#8 then (d.lenZ, none) else (d.lenNz b, none)
  | .dataMore => (d.dataMore b, none)
  | .dataLast => (d.dataLast b, none)
  | .crc1 => (d.crc1, none)
  | .crc2 => (d.crc2, some d.completed)

/-- dec_run (R82): the final registers and the messages in order of emission. -/
def decRun (d : Dec) : List Byte → Dec × List Message
  | [] => (d, [])
  | b :: bs =>
    let r := decStep d b
    let t := decRun r.1 bs
    (t.1, r.2.toList ++ t.2)

/-- The decoder states visited, one after each byte (R87, R88). -/
def decTrace (d : Dec) : List Byte → List DState
  | [] => []
  | b :: bs => (decStep d b).1.dstate :: decTrace (decStep d b).1 bs

/-- The common shape of an arc's meaning: where the arc is selected, the registers change and a completed message is
delivered; where another arc is selected, this one is no step of the block (R58, log 14). -/
def arc (selected : Bool) (d : Dec) (out : Option Message) (s : State) : Result :=
  if selected then
    match out with
    | none => .next { s with dec := d }
    | some m => .next (State.deliver { s with dec := d } m)
  else .refused .arcNotSelected

/-- D.S1.HIT (R71). -/
def execDS1Hit (s : State) : Result := arc (s.dec.slot == .sync1) s.dec.s1Hit none s

/-- D.S1.MISS (R72). -/
def execDS1Miss (b : Byte) (s : State) : Result :=
  arc (s.dec.slot == .sync1 && b != Config.sync) s.dec.s1Miss none s

/-- D.S2.HIT (R73). -/
def execDS2Hit (s : State) : Result := arc (s.dec.slot == .sync2) s.dec.s2Hit none s

/-- D.S2.MISS (R74). -/
def execDS2Miss (b : Byte) (s : State) : Result :=
  arc (s.dec.slot == .sync2 && b != Config.sync) s.dec.s2Miss none s

/-- D.CMD (R75). -/
def execDCmd (b : Byte) (s : State) : Result := arc (s.dec.slot == .cmd) (s.dec.takeCmd b) none s

/-- D.LEN.Z (R76). -/
def execDLenZ (s : State) : Result := arc (s.dec.slot == .len) s.dec.lenZ none s

/-- D.LEN.NZ (R77). -/
def execDLenNz (b : Byte) (s : State) : Result :=
  arc (s.dec.slot == .len && b != 0x00#8) (s.dec.lenNz b) none s

/-- D.DATA.MORE (R78). -/
def execDDataMore (b : Byte) (s : State) : Result := arc (s.dec.slot == .dataMore) (s.dec.dataMore b) none s

/-- D.DATA.LAST (R79). -/
def execDDataLast (b : Byte) (s : State) : Result := arc (s.dec.slot == .dataLast) (s.dec.dataLast b) none s

/-- D.CRC1 (R80): the byte is not looked at. -/
def execDCrc1 (_b : Byte) (s : State) : Result := arc (s.dec.slot == .crc1) s.dec.crc1 none s

/-- D.CRC2 (R81): the byte is not looked at; the message is delivered (spec/60_exceptions.md R159). -/
def execDCrc2 (_b : Byte) (s : State) : Result :=
  arc (s.dec.slot == .crc2) s.dec.crc2 (some s.dec.completed) s

end Sys2Proof.Machine
end

