-- ==== Sys2Proof/Machine/CommandId.lean ====
section
/-! DEFINITION. The ten informative rows of format CMDID (spec/30_encoding.md R53): each names a value of the COMMAND
byte. The block does not look at the value, so the meaning of a row is what D.CMD does with that byte (log 15). -/

namespace Sys2Proof.Machine

/-- The COMMAND byte b is received: what D.CMD does with it (spec/40_decoder.md R75). -/
def commandByte (b : Byte) (s : State) : Result := arc (s.dec.slot == .cmd) (s.dec.takeCmd b) none s

/-- firmware-version = 0x01. -/
def execCmdidFirmwareVersion (s : State) : Result := commandByte 0x01#8 s

/-- hardware-version = 0x02. -/
def execCmdidHardwareVersion (s : State) : Result := commandByte 0x02#8 s

/-- set-time = 0x03. -/
def execCmdidSetTime (s : State) : Result := commandByte 0x03#8 s

/-- get-time = 0x04. -/
def execCmdidGetTime (s : State) : Result := commandByte 0x04#8 s

/-- cpu-temp = 0x05. -/
def execCmdidCpuTemp (s : State) : Result := commandByte 0x05#8 s

/-- temperature = 0x06. -/
def execCmdidTemperature (s : State) : Result := commandByte 0x06#8 s

/-- set-log-interval = 0x07. -/
def execCmdidSetLogInterval (s : State) : Result := commandByte 0x07#8 s

/-- get-log-interval = 0x08. -/
def execCmdidGetLogInterval (s : State) : Result := commandByte 0x08#8 s

/-- stream-logs = 0x09. -/
def execCmdidStreamLogs (s : State) : Result := commandByte 0x09#8 s

/-- start-new-log = 0x0A. -/
def execCmdidStartNewLog (s : State) : Result := commandByte 0x0A#8 s

end Sys2Proof.Machine
end

