-- ==== Sys2Proof/Machine/Receive.lean ====
section
/-! DEFINITION. The receive side (spec/42_transport.md section 1, spec/60_exceptions.md R154): delivery, failed reads and
the pump's consume step. -/

namespace Sys2Proof.Machine

/-- dec_step applied to the block, with the delivery of a completed message (spec/42_transport.md R118). -/
def State.feed (s : State) (b : Byte) : State :=
  match decStep s.dec b with
  | (d, none) => { s with dec := d }
  | (d, some m) => State.deliver { s with dec := d } m

/-- The pump may feed a byte: run = 1, rxq not empty, and the previous consume, with its observer invocation, has finished
(spec/42_transport.md R118). -/
def State.canConsume (s : State) : Bool := s.run && !s.rxq.isEmpty && s.obsRun.isNone

/-- Pop the head of rxq and feed it. -/
def State.consume (s : State) : State :=
  match s.rxq with
  | [] => s
  | b :: rest => State.feed { s with rxq := rest } b

/-- T.RX.DELIVER (R116): the chunk goes to the tail of rxq and rderr is cleared. Not enabled while run = 0 or while rxq
has no room. -/
def execTRxDeliver (bs : List Byte) (s : State) : Result :=
  if s.run && s.rxRoom bs.length then .next { s.okRead with rxq := s.rxq ++ bs }
  else .next (s.wait (.tRxDeliver bs))

/-- T.RX.ERROR (spec/60_exceptions.md R154): counted, and the third in a row sets link_lost; nobody is told and the pump
runs on. Not enabled while run = 0. -/
def execTRxError (s : State) : Result :=
  if s.run then .next s.failRead else .next (s.wait .tRxError)

/-- P.RX.CONSUME (R118). -/
def execPRxConsume (s : State) : Result :=
  if s.canConsume then .next s.consume else .next (s.wait .pRxConsume)

end Sys2Proof.Machine
end

