-- ==== Sys2Proof/Machine/Control.lean ====
section
/-! DEFINITION. The control operations of the caller: H.START, H.SETOBS, H.STOP (spec/42_transport.md sections 2 and 4). -/

namespace Sys2Proof.Machine

/-- The transport is asked to open; the identifier and the rate are handed on and not interpreted (R121, R126). -/
def State.askOpen (s : State) (transportId : String) (baudRate : Int) : State :=
  { s with out := { s.out with opened := s.out.opened ++ [(transportId, baudRate)] } }

/-- The device opened: a fresh connection, the failure bookkeeping cleared, run ← 1; obs unchanged (R121). -/
def State.started (s : State) : State :=
  { s.freshConnection with rderr := 0, linkLost := false, run := true }

/-- The device could not be opened: run stays 0, dead ← 1, queues empty, decoder at its reset values, obs unchanged, and
TransportUnavailable raised (spec/60_exceptions.md R152). -/
def State.failedStart (s : State) : State :=
  State.raise { s.freshConnection with run := false, dead := true } .unavailable

/-- H.START (R121, R130). The environment decides whether the device can be opened (a draw in 0 .. 1, 1 for yes). -/
def execHStart (transportId : String) (baudRate : Int) (s : State) : Result :=
  if s.turn = .observer then .refused .insideObserver
  else if s.dead then .refused .deadInstance
  else if s.run then .refused .alreadyRunning
  else if s.drawn 1 = 1 then .next (s.afterDraw.askOpen transportId baudRate).started
  else .next (s.afterDraw.askOpen transportId baudRate).failedStart

/-- H.SETOBS (R123): the last registration wins. -/
def execHSetObs (cb : CallbackId) (s : State) : Result := .next { s with obs := some cb }

/-- n residual consume steps of a stop (R129), up to the first one that calls the observer; with it, how many are left. -/
def State.residual (s : State) : Nat → State × Nat
  | 0 => (s, 0)
  | n + 1 => if s.consume.obsRun.isSome then (s.consume, n) else s.consume.residual n

/-- run ← 0, rxq emptied, the decoder state discarded; the stop's residual steps are over (R129). -/
def State.pumpExit (s : State) : State := State.discardDec { s with run := false, rxq := [], stopping := none }

/-- The transport is closed: a drawn number of the bytes of txq is still sent and the rest dropped (R129). -/
def State.close (s : State) : State :=
  { s.afterDraw.drain (s.drawn s.txq.length) with txq := [] }

/-- The stop waits for the observer that one of its residual steps has called; run is still 1, so the observer may send
and register (R129, spec/60_exceptions.md R160). It goes on as the next request of the agent that stops (log 8). -/
def State.suspend (s : State) (left : Nat) : State :=
  State.wait { s with stopping := some { who := s.turn, left := left } } .hStop

/-- The lines of R129's pseudocode, with n residual consume steps still to perform. -/
def State.stopWith (s : State) (n : Nat) : State :=
  if (s.residual n).1.obsRun.isSome then (s.residual n).1.suspend (s.residual n).2
  else (s.residual n).1.pumpExit.close

/-- H.STOP (R129, R130): the number of residual steps is drawn when the stop begins, and a stop that its observer has
held up goes on once the observer has returned. It waits while an observer invocation is in progress ("waits for it to
finish") and while another agent's stop is; from inside the observer it is refused. -/
def execHStop (s : State) : Result :=
  if s.turn = .observer then .refused .insideObserver
  else if s.dead then .refused .deadInstance
  else if !s.run then .refused .notRunning
  else if s.obsRun.isSome then .next (s.wait .hStop)
  else
    match s.stopping with
    | none => .next (s.afterDraw.stopWith (s.drawn s.rxq.length))
    | some st => if st.who = s.turn then .next (s.stopWith st.left) else .next (s.wait .hStop)

end Sys2Proof.Machine
end

