-- ==== Sys2Proof/Machine/Encoder.lean ====
section
/-! DEFINITION. The frame encoder (spec/41_encoder.md). -/

namespace Sys2Proof.Machine

/-- encode(m), the pseudocode of R100. It has a meaning for well-formed messages only (R102); the operations check. -/
def encodeMsg (m : Message) : List Byte :=
  [Config.sync, Config.sync, m.command, m.length]
    ++ (if 0 < m.length.toNat then m.payload else [])
    ++ [Config.trailerFill, Config.trailerFill]

/-- The byte-position form (R101): the byte at position i of the frame, 0 ≤ i ≤ 5 + L. -/
def encodeByte (m : Message) (i : Nat) : Byte :=
  if i < 2 then Config.sync
  else if i = 2 then m.command
  else if i = 3 then m.length
  else if i < Config.headerBytes + m.length.toNat then m.payload.getD (i - Config.headerBytes) Config.trailerFill
  else Config.trailerFill

/-- E.ENCODE (R100, R105): no state of the block is read or written; the byte sequence is returned to the agent that
asked (out.frame, log 10). An ill-formed message is refused (R102). -/
def execEEncode (m : Message) (s : State) : Result :=
  if m.wf then .next { s with out := { s.out with frame := encodeMsg m } } else .refused .illFormedMessage

end Sys2Proof.Machine
end

