-- ==== Sys2Proof/Machine/Transmit.lean ====
section
/-! DEFINITION. The transmit side (spec/42_transport.md section 3, spec/60_exceptions.md R153). -/

namespace Sys2Proof.Machine

/-- The write lock is taken by the agent performing the operation (spec/20_memory.md R44). -/
def State.lock (s : State) : State := { s with wlock := some s.turn }

/-- The write lock is released (R44). -/
def State.unlock (s : State) : State := { s with wlock := none }

/-- The bytes go to the tail of txq, in one piece (spec/42_transport.md R124). -/
def State.append (s : State) (bs : List Byte) : State := { s with txq := s.txq ++ bs }

/-- The write of one frame under the lock. The environment decides whether it succeeds (a draw in 0 .. 1, 1 for success):
then the whole frame is in txq (R124); else a drawn number of its bytes is, and TransportWriteError is raised
(spec/60_exceptions.md R153). Either way the lock is released (R44). -/
def State.writeFrame (s : State) (bs : List Byte) : State :=
  if s.drawn 1 = 1 then (s.afterDraw.lock.append bs).unlock
  else ((s.afterDraw.afterDraw.lock.append (bs.take (s.afterDraw.drawn bs.length))).raise .writeError).unlock

/-- H.SEND (R124, R125, R130): refused on a dead or stopped instance and for an ill-formed message; not enabled while the
write lock is held or txq has no room for the frame. -/
def execHSend (m : Message) (s : State) : Result :=
  if s.dead then .refused .deadInstance
  else if !s.run then .refused .notRunning
  else if !m.wf then .refused .illFormedMessage
  else if s.wlock.isNone && s.txRoom (Config.frameMin + m.length.toNat) then .next (s.writeFrame (encodeMsg m))
  else .next (s.wait (.hSend m))

/-- T.TX.DRAIN k (R128): the first k bytes go to the wire. Not enabled while txq does not hold k bytes (log 18); k = 0 is
no operand. -/
def execTTxDrain (k : Nat) (s : State) : Result :=
  if k = 0 then .refused .drainOfNothing
  else if k ≤ s.txq.length then .next (s.drain k)
  else .next (s.wait (.tTxDrain k))

end Sys2Proof.Machine
end

