-- ==== Sys2Proof/Machine/Dispatch.lean ====
section
/-! DEFINITION. One arm per operation. -/

namespace Sys2Proof.Machine

def exec (i : Instr) (s : State) : Host.Outcome State Fault Refusal :=
  match i with
  -- the decoder arcs
  | .dS1Hit => Sys2Proof.Machine.execDS1Hit s
  | .dS1Miss b => Sys2Proof.Machine.execDS1Miss b s
  | .dS2Hit => Sys2Proof.Machine.execDS2Hit s
  | .dS2Miss b => Sys2Proof.Machine.execDS2Miss b s
  | .dCmd b => Sys2Proof.Machine.execDCmd b s
  | .dLenZ => Sys2Proof.Machine.execDLenZ s
  | .dLenNz b => Sys2Proof.Machine.execDLenNz b s
  | .dDataMore b => Sys2Proof.Machine.execDDataMore b s
  | .dDataLast b => Sys2Proof.Machine.execDDataLast b s
  | .dCrc1 b => Sys2Proof.Machine.execDCrc1 b s
  | .dCrc2 b => Sys2Proof.Machine.execDCrc2 b s
  -- the encoder
  | .eEncode m => Sys2Proof.Machine.execEEncode m s
  -- the interface operations
  | .tRxDeliver bs => Sys2Proof.Machine.execTRxDeliver bs s
  | .tRxError => Sys2Proof.Machine.execTRxError s
  | .pRxConsume => Sys2Proof.Machine.execPRxConsume s
  | .tTxDrain k => Sys2Proof.Machine.execTTxDrain k s
  | .hStart transportId baudRate => Sys2Proof.Machine.execHStart transportId baudRate s
  | .hSetObs cb => Sys2Proof.Machine.execHSetObs cb s
  | .hSend m => Sys2Proof.Machine.execHSend m s
  | .hStop => Sys2Proof.Machine.execHStop s
  -- the listed values of the COMMAND byte
  | .cmdidFirmwareVersion => Sys2Proof.Machine.execCmdidFirmwareVersion s
  | .cmdidHardwareVersion => Sys2Proof.Machine.execCmdidHardwareVersion s
  | .cmdidSetTime => Sys2Proof.Machine.execCmdidSetTime s
  | .cmdidGetTime => Sys2Proof.Machine.execCmdidGetTime s
  | .cmdidCpuTemp => Sys2Proof.Machine.execCmdidCpuTemp s
  | .cmdidTemperature => Sys2Proof.Machine.execCmdidTemperature s
  | .cmdidSetLogInterval => Sys2Proof.Machine.execCmdidSetLogInterval s
  | .cmdidGetLogInterval => Sys2Proof.Machine.execCmdidGetLogInterval s
  | .cmdidStreamLogs => Sys2Proof.Machine.execCmdidStreamLogs s
  | .cmdidStartNewLog => Sys2Proof.Machine.execCmdidStartNewLog s

end Sys2Proof.Machine
end

