-- ==== Sys2Proof/Machine/Turn.lean ====
section
/-! DEFINITION. What an agent does on its turn, and how a table word is put where the step fetches it. -/

namespace Sys2Proof.Machine

/-- The agent performs a request: one of its own operations, or the observer's return. -/
def perform (act : Action) (s : State) : Result :=
  match act with
  | .op i => if issuedBy i s.turn then exec i s else .refused .notPermitted
  | .obsReturn => if s.turn = .observer then .next s.obsReturn else .refused .notPermitted

/-- The pump's turn without a request: it feeds the next waiting byte, "continuously and without caller intervention"
(spec/42_transport.md R119, log 20). This is the fetch: the byte at the head of rxq, read in the decoder's present slot,
is the arc that runs. -/
def fetch (s : State) : Result :=
  match s.rxq with
  | [] => .next s
  | b :: rest => exec (decodeRxb s.dec.slot b) { s with rxq := rest }

/-- An agent's turn without a request: the pump fetches, the observer returns (spec/60_exceptions.md R160, log 23), the
others do nothing. -/
def ownTurn (s : State) : Result :=
  match s.turn with
  | .pump => fetch s
  | .observer => .next s.obsReturn
  | .caller _ => .next s
  | .rxSide => .next s
  | .txSide => .next s

/-- One turn: an agent that cannot move lets its turn pass; else it performs its first request, or what it does without
one. -/
def takeTurn (s : State) : Result :=
  if s.canAct then
    match takeRequest s.turn s.env.pending with
    | some (act, rest) => perform act { s with env := { s.env with pending := rest } }
    | none => ownTurn s
  else .next s

/-- The agent that asks for an operation when a table word is to be run. -/
def issuerOf (i : Instr) : Agent :=
  if issuedBy i .pump then .pump
  else if issuedBy i .rxSide then .rxSide
  else if issuedBy i .txSide then .txSide
  else .caller 0

/-- The decoder state a slot belongs to. -/
def dstateOf : Slot → DState
  | .sync1 => .sync1
  | .sync2 => .sync2
  | .cmd => .cmd
  | .len => .len
  | .dataMore => .data
  | .dataLast => .data
  | .crc1 => .crc1
  | .crc2 => .crc2

/-- A received byte is put at the head of rxq, with all the fetch takes: the pump's turn, run = 1, no observer running,
no stop in progress, no request of the pump in front of its own turn, and the decoder state that selects the row. -/
def State.placeByte (s : State) (d : DState) (b : Byte) : State :=
  { s with
    dec := { s.dec with dstate := d }
    run := true
    rxq := b :: s.rxq
    obsRun := none
    stopping := none
    env := { s.env with
      sched := .pump :: s.env.sched
      pending := s.env.pending.filter fun r => r.agent != .pump } }

/-- An operation is put in front of the requests, with its agent's turn. -/
def State.placeRequest (s : State) (i : Instr) : State :=
  { s with env := { s.env with
      sched := issuerOf i :: s.env.sched
      pending := { agent := issuerOf i, act := .op i } :: s.env.pending } }

/-- The operation is put where the step fetches it: an arc as its byte in the state that selects it, a COMMAND value as a
byte in CMD, anything else as a request (log 17). -/
def State.place (s : State) (i : Instr) : State :=
  match encode i with
  | some (.rxb slot b) => s.placeByte (dstateOf slot) b
  | some (.cmdid b) => s.placeByte .cmd b
  | some (.frame _) => s.placeRequest i
  | none => s.placeRequest i

end Sys2Proof.Machine
end

