-- ==== Sys2Proof/Machine/Step.lean ====
section
/-! DEFINITION. One step: the next agent takes its turn (spec/00_scope.md R5, R6). -/

namespace Sys2Proof.Machine

/-- One step of the block and its surroundings. -/
def step (s : State) : Host.Outcome State Fault Refusal := takeTurn s.nextTurn

/-- s with the operation that the decoder reads from a table word put where step fetches its next operation (log 17); a
word the decoder refuses changes nothing. -/
def State.withFetchWord (s : State) (nbits w : Nat) : State :=
  match decodeTableWord nbits w with
  | some i => s.place i
  | none => s

end Sys2Proof.Machine
end

