-- ==== Sys2Proof/Laws/PerInstr.lean ====
section
/-! SUPPORT. The per-instruction family CodeRoundTrip: the bits of a well-formed operation decode to it
(spec/30_encoding.md R50, R53, R58). The rows of format OP have no bits (R62), so there the statement is about none. -/

namespace Sys2Proof.Laws.CodeRoundTrip

/-- The bits of the operation, if it is well formed and has bits, decode to it. -/
def Statement (i : Instr) : Prop := i.wf = true → ∀ c, encode i = some c → decode c = .ok i

/-- A frame whose payload has the length its LENGTH field says is read back whole, whatever follows it. -/
theorem decodeFrame_frameOf (m : Message) (tail : List Byte) (h : m.wf = true) :
    decodeFrame (frameOf m ++ tail) = .ok (.eEncode m, tail) := by
  obtain ⟨c, l, p⟩ := m
  have hl : l.toNat = p.length := by simpa [Message.wf] using h
  simp [frameOf, decodeFrame, decodeFrameBody, hl]

theorem dS1Hit : Statement (.dS1Hit) := by
  rintro _ c ⟨⟩
  decide

theorem dS1Miss (b : Byte) : Statement (.dS1Miss b) := by
  rintro h c ⟨⟩
  have hb : b ≠ Config.sync := by simpa [Instr.wf] using h
  simp [decode, decodeRxb, hb]

theorem dS2Hit : Statement (.dS2Hit) := by
  rintro _ c ⟨⟩
  decide

theorem dS2Miss (b : Byte) : Statement (.dS2Miss b) := by
  rintro h c ⟨⟩
  have hb : b ≠ Config.sync := by simpa [Instr.wf] using h
  simp [decode, decodeRxb, hb]

theorem dCmd (b : Byte) : Statement (.dCmd b) := by
  rintro _ c ⟨⟩
  rfl

theorem dLenZ : Statement (.dLenZ) := by
  rintro _ c ⟨⟩
  decide

theorem dLenNz (b : Byte) : Statement (.dLenNz b) := by
  rintro h c ⟨⟩
  have hb : b ≠ 0x00#8 := by simpa [Instr.wf] using h
  simp [decode, decodeRxb, hb]

theorem dDataMore (b : Byte) : Statement (.dDataMore b) := by
  rintro _ c ⟨⟩
  rfl

theorem dDataLast (b : Byte) : Statement (.dDataLast b) := by
  rintro _ c ⟨⟩
  rfl

theorem dCrc1 (b : Byte) : Statement (.dCrc1 b) := by
  rintro _ c ⟨⟩
  rfl

theorem dCrc2 (b : Byte) : Statement (.dCrc2 b) := by
  rintro _ c ⟨⟩
  rfl

theorem eEncode (m : Message) : Statement (.eEncode m) := by
  rintro h c ⟨⟩
  have hf := decodeFrame_frameOf m [] h
  simp only [List.append_nil] at hf
  simp [decode, hf]

theorem tRxDeliver (bs : List Byte) : Statement (.tRxDeliver bs) := by
  rintro _ c ⟨⟩

theorem tRxError : Statement (.tRxError) := by
  rintro _ c ⟨⟩

theorem pRxConsume : Statement (.pRxConsume) := by
  rintro _ c ⟨⟩

theorem tTxDrain (k : Nat) : Statement (.tTxDrain k) := by
  rintro _ c ⟨⟩

theorem hStart (transportId : String) (baudRate : Int) : Statement (.hStart transportId baudRate) := by
  rintro _ c ⟨⟩

theorem hSetObs (cb : CallbackId) : Statement (.hSetObs cb) := by
  rintro _ c ⟨⟩

theorem hSend (m : Message) : Statement (.hSend m) := by
  rintro _ c ⟨⟩

theorem hStop : Statement (.hStop) := by
  rintro _ c ⟨⟩

theorem cmdidFirmwareVersion : Statement (.cmdidFirmwareVersion) := by
  rintro _ c ⟨⟩
  rfl

theorem cmdidHardwareVersion : Statement (.cmdidHardwareVersion) := by
  rintro _ c ⟨⟩
  rfl

theorem cmdidSetTime : Statement (.cmdidSetTime) := by
  rintro _ c ⟨⟩
  rfl

theorem cmdidGetTime : Statement (.cmdidGetTime) := by
  rintro _ c ⟨⟩
  rfl

theorem cmdidCpuTemp : Statement (.cmdidCpuTemp) := by
  rintro _ c ⟨⟩
  rfl

theorem cmdidTemperature : Statement (.cmdidTemperature) := by
  rintro _ c ⟨⟩
  rfl

theorem cmdidSetLogInterval : Statement (.cmdidSetLogInterval) := by
  rintro _ c ⟨⟩
  rfl

theorem cmdidGetLogInterval : Statement (.cmdidGetLogInterval) := by
  rintro _ c ⟨⟩
  rfl

theorem cmdidStreamLogs : Statement (.cmdidStreamLogs) := by
  rintro _ c ⟨⟩
  rfl

theorem cmdidStartNewLog : Statement (.cmdidStartNewLog) := by
  rintro _ c ⟨⟩
  rfl

end Sys2Proof.Laws.CodeRoundTrip
end

