-- ==== Sys2Proof/Machine/Serialiser.lean ====
section
/-! DEFINITION. The optional byte-serial realisation of the encoder (spec/41_encoder.md R107), beside the block. It is not
part of State: its position counter is private to the realisation (spec/10_state.md R24, log 29). It stands here to be
proved equivalent to R100 together with spec/42_transport.md R124. -/

namespace Sys2Proof.Machine

/-- The message held and the 9-bit position counter. -/
structure Serialiser where
  msg  : Message
  epos : BitVec 9
  deriving DecidableEq, Repr

/-- It starts at position 0. -/
def Serialiser.start (m : Message) : Serialiser := { msg := m, epos := 0#9 }

/-- The byte presented to the outbound queue: none once epos = 5 + L has been sent. -/
def Serialiser.byte (p : Serialiser) : Option Byte :=
  if p.epos.toNat < Config.frameMin + p.msg.length.toNat then some (encodeByte p.msg p.epos.toNat) else none

/-- A byte has been accepted: 1 is added to epos. -/
def Serialiser.accepted (p : Serialiser) : Serialiser := { p with epos := p.epos + 1#9 }

/-- The bytes accepted in n acceptances. -/
def Serialiser.bytes (p : Serialiser) : Nat → List Byte
  | 0 => []
  | n + 1 =>
    match p.byte with
    | some b => b :: p.accepted.bytes n
    | none => []

/-- The block with a byte-serial encoder beside it, which holds a message while it sends it. -/
structure Serial where
  block   : State
  sending : Option Serialiser
  deriving DecidableEq, Repr

/-- What happens to the pair: a message is taken, a byte is accepted into txq, the transport drains bytes (R128). -/
inductive SerialEvent where
  | take (m : Message)
  | accept
  | drain (k : Nat)
  deriving DecidableEq, Repr

/-- A message is taken: only while none is held, and under the conditions of H.SEND (spec/42_transport.md R124, R130), the
lock being taken with it (R107). Room is needed byte by byte, not yet here. -/
def Serial.take (x : Serial) (m : Message) : Option Serial :=
  if x.sending.isNone && x.block.wlock.isNone && x.block.run && !x.block.dead && m.wf then
    some { block := x.block.lock, sending := some (Serialiser.start m) }
  else none

/-- The serialiser p has had its byte accepted: the lock is released with the last byte (R107). -/
def Serial.advance (x : Serial) (p : Serialiser) (b : Byte) : Serial :=
  if p.accepted.byte.isSome then { block := x.block.append [b], sending := some p.accepted }
  else { block := (x.block.append [b]).unlock, sending := none }

/-- The byte presented is accepted: only while one is presented and txq has room for it (R107). -/
def Serial.accept (x : Serial) : Option Serial :=
  match x.sending with
  | none => none
  | some p =>
    match p.byte with
    | none => none
    | some b => if x.block.txRoom 1 then some (x.advance p b) else none

/-- One event; none where it is not enabled. -/
def Serial.next (x : Serial) : SerialEvent → Option Serial
  | .take m => x.take m
  | .accept => x.accept
  | .drain k => if 1 ≤ k ∧ k ≤ x.block.txq.length then some { x with block := x.block.drain k } else none

/-- A sequence of events, each of them enabled. -/
def Serial.run (x : Serial) : List SerialEvent → Option Serial
  | [] => some x
  | e :: es =>
    match x.next e with
    | none => none
    | some y => y.run es

/-- The counts of the drains among the events. -/
def SerialEvent.drains : List SerialEvent → List Nat
  | [] => []
  | .drain k :: es => k :: SerialEvent.drains es
  | .take _ :: es => SerialEvent.drains es
  | .accept :: es => SerialEvent.drains es

/-- The same drains of the atomic block, one after the other. -/
def State.drainAll (s : State) : List Nat → State
  | [] => s
  | k :: ks => (s.drain k).drainAll ks

end Sys2Proof.Machine
end

