-- ==== Sys2Proof/Safety.lean ====
section
/-! DEFINITION. What claims speak of: the invariants of the decoder and of the block, and the transparent prefixes. -/

namespace Sys2Proof.Machine

/-- The message in construction is fresh (spec/00_scope.md, glossary). -/
abbrev Dec.fresh (d : Dec) : Prop := d.cmd = Config.freshCmd ∧ d.len = 0x00#8 ∧ d.pay = []

/-- The table of spec/10_state.md R17: one row per decoder state. -/
def Dec.Inv (d : Dec) : Prop :=
  match d.dstate with
  | .sync1 => d.fresh
  | .sync2 => d.fresh
  | .cmd => d.fresh
  | .len => d.len = 0x00#8 ∧ d.pay = []
  | .data => d.pay.length = d.idx.toNat ∧ d.idx.toNat < d.len.toNat
  | .crc1 => d.pay.length = d.len.toNat ∧ d.idx = d.len
  | .crc2 => d.pay.length = d.len.toNat ∧ d.idx = d.len

/-- What holds of the block between two steps. -/
structure State.Inv (s : State) : Prop where
  /-- spec/10_state.md R17, while the connection is open -/
  dec : s.run = true → s.dec.Inv
  /-- spec/42_transport.md R130: "dead = 1 implies run = 0" -/
  dead : s.dead = true → s.run = false
  /-- spec/10_state.md R20, R21: the queues' capacities -/
  rxq : fits Config.rxDepth s.rxq.length = true
  txq : fits Config.txDepth s.txq.length = true
  /-- spec/70_reset_and_hazards.md R170: nothing waits while no connection is open -/
  closed : s.run = false → s.rxq = [] ∧ s.txq = [] ∧ s.obsRun = none
  /-- spec/10_state.md R22: an atomic send leaves the lock free -/
  wlock : s.wlock = none
  /-- spec/10_state.md R23: 0 to RDERR_LIMIT, and the limit has set link_lost (spec/60_exceptions.md R154) -/
  rderr : s.rderr ≤ Config.rdErrLimit
  lost : s.rderr = Config.rdErrLimit → s.linkLost = true
  /-- spec/42_transport.md R129: a stop in progress has run = 1, and its residual bytes wait in rxq -/
  stopping : ∀ st, s.stopping = some st → s.run = true ∧ st.left ≤ s.rxq.length

/-- The blocks a transparent prefix is made of (spec/40_decoder.md R85): one byte that is not SYNC, or SYNC and then one
byte that is not SYNC. -/
inductive Blocks : List Byte → Prop where
  | nil : Blocks []
  | noise {b : Byte} {bs : List Byte} : b ≠ Config.sync → Blocks bs → Blocks (b :: bs)
  | lone {b : Byte} {bs : List Byte} : b ≠ Config.sync → Blocks bs → Blocks (Config.sync :: b :: bs)

/-- A transparent prefix (spec/40_decoder.md R85): it takes a fresh decoder back to SYNC_1 with no message. -/
def Transparent (p : List Byte) : Prop :=
  (decRun Dec.init p).1.dstate = .sync1 ∧ (decRun Dec.init p).2 = []

/-- The largest number of bytes a decoder takes to pass through SYNC_1 again (spec/40_decoder.md R88). -/
def Dec.bound (d : Dec) : Nat :=
  match d.dstate with
  | .sync1 => 0
  | .sync2 => 260
  | .cmd => 259
  | .len => 258
  | .data => d.len.toNat - d.idx.toNat + 2
  | .crc1 => 2
  | .crc2 => 1

/-- The edges of the transition graph (spec/40_decoder.md R88). -/
def successors : DState → List DState
  | .sync1 => [.sync1, .sync2]
  | .sync2 => [.sync1, .cmd]
  | .cmd => [.len]
  | .len => [.data, .crc1]
  | .data => [.data, .crc1]
  | .crc1 => [.crc2]
  | .crc2 => [.sync1]

/-- The calls that messages lead to: none without an observer (spec/60_exceptions.md R157). -/
def callsOf (o : Option CallbackId) (ms : List Message) : List Call :=
  match o with
  | none => []
  | some f => ms.map (Call.mk f)

/-- What R129 says of the state after a stop that decoded j more bytes and let k more be sent (decision D17): the decoder
state is not spoken of. -/
def Stopped (s t : State) (j k : Nat) : Prop :=
  t.run = false ∧ t.rxq = [] ∧ t.txq = [] ∧
  t.out.wire = s.out.wire ++ s.txq.take k ∧
  t.out.calls = s.out.calls ++ callsOf s.obs (decRun s.dec (s.rxq.take j)).2 ∧
  t.obs = s.obs ∧ t.linkLost = s.linkLost ∧ t.rderr = s.rderr ∧ t.dead = s.dead ∧ t.wlock = s.wlock ∧
  t.obsRun = none ∧ t.stopping = none ∧ t.turn = s.turn ∧
  t.out.raised = s.out.raised ∧ t.out.opened = s.out.opened ∧ t.out.frame = s.out.frame ∧
  t.env.sched = s.env.sched ∧ t.env.pending = s.env.pending

/-- A stop with n residual consume steps has been held up by the observer (R129, log 8): the bytes of rxq up to the first
that completes a message have been consumed, the observer f is running on that message, and the rest of the stop is the
stopping agent's next request. -/
def HeldUp (s t : State) (n : Nat) : Prop :=
  ∃ i m f, i < n ∧ s.obs = some f ∧
    (decRun s.dec (s.rxq.take i)).2 = [] ∧ (decRun s.dec (s.rxq.take (i + 1))).2 = [m] ∧
    t = { s with
      dec := (decRun s.dec (s.rxq.take (i + 1))).1
      rxq := s.rxq.drop (i + 1)
      obsRun := some { observer := f, msg := m }
      stopping := some { who := s.turn, left := n - (i + 1) }
      out := { s.out with calls := s.out.calls ++ [{ observer := f, msg := m }] }
      env := { s.env with pending := { agent := s.turn, act := .op .hStop } :: s.env.pending } }

end Sys2Proof.Machine
end

