-- ==== Sys2Proof/Certificates/Slice0/Obligations.lean ====
section
/-! DEFINITION. The statements for the provers. They state and never prove. -/

open Sys2Proof Sys2Proof.Machine

/-! ## Reset -/

/-- What construction leaves in every field (spec/10_state.md section 5, R25). The values of cmd and idx are the spec's
decisions D5 and D4, the free write lock and the empty queues its reading of an atomic model (log 2, log 12). The model's
choices are that no observer invocation and no stop is in progress (log 3, log 8), that the output records are empty
(log 10), and the turn and the inputs (log 27). -/
def Obligations.ResetLeavesTheBlockIdle : Prop :=
  State.reset.dec.dstate = .sync1 ∧ State.reset.dec.cmd = Config.freshCmd ∧ State.reset.dec.len = 0x00#8 ∧
  State.reset.dec.idx = 0x00#8 ∧ State.reset.dec.pay = [] ∧
  State.reset.run = false ∧ State.reset.dead = false ∧ State.reset.obs = none ∧
  State.reset.rxq = [] ∧ State.reset.txq = [] ∧ State.reset.wlock = none ∧
  State.reset.rderr = 0 ∧ State.reset.linkLost = false ∧ State.reset.obsRun = none ∧ State.reset.stopping = none ∧
  State.reset.out = { wire := [], calls := [], raised := [], opened := [], frame := [] } ∧
  State.reset.turn = .pump ∧
  State.reset.env = { sched := [], pending := [], choices := [], drawn := 0 }

/-- The state after construction meets the block's invariant. -/
def Obligations.ResetMeetsTheInvariant : Prop := State.reset.Inv

/-! ## The decoder arcs, as operations on the whole state: the equations are also their frames -/

/-- R71, R72, R73, R74: the four arcs that hunt for the preamble. -/
def Obligations.HuntingArcsOnlyMoveTheState : Prop :=
  ∀ (s : State) (b : Byte),
    (s.dec.dstate = .sync1 → exec .dS1Hit s = .next { s with dec := { s.dec with dstate := .sync2 } }) ∧
    (s.dec.dstate = .sync1 → b ≠ Config.sync →
      exec (.dS1Miss b) s = .next { s with dec := { s.dec with dstate := .sync1 } }) ∧
    (s.dec.dstate = .sync2 → exec .dS2Hit s = .next { s with dec := { s.dec with dstate := .cmd } }) ∧
    (s.dec.dstate = .sync2 → b ≠ Config.sync →
      exec (.dS2Miss b) s = .next { s with dec := { s.dec with dstate := .sync1 } })

/-- R75, R76, R77: the command byte and the length byte. -/
def Obligations.HeaderArcsStoreTheirByte : Prop :=
  ∀ (s : State) (b : Byte),
    (s.dec.dstate = .cmd → exec (.dCmd b) s = .next { s with dec := { s.dec with cmd := b, dstate := .len } }) ∧
    (s.dec.dstate = .len →
      exec .dLenZ s = .next { s with dec := { s.dec with len := 0x00#8, idx := 0x00#8, dstate := .crc1 } }) ∧
    (s.dec.dstate = .len → b ≠ 0x00#8 →
      exec (.dLenNz b) s =
        .next { s with dec := { s.dec with len := b, idx := 0x00#8, pay := [], dstate := .data } })

/-- R78, R79: a payload byte is appended and counted; the comparison is made without wrap. In DATA states that break R17,
which no run reaches, this is log 25 (R83, decision D4). -/
def Obligations.PayloadArcsAppendAndCount : Prop :=
  ∀ (s : State) (b : Byte), s.dec.dstate = .data →
    (s.dec.idx.toNat + 1 ≠ s.dec.len.toNat →
      exec (.dDataMore b) s =
        .next { s with dec := { s.dec with pay := s.dec.pay ++ [b], idx := s.dec.idx + 1#8, dstate := .data } }) ∧
    (s.dec.idx.toNat + 1 = s.dec.len.toNat →
      exec (.dDataLast b) s =
        .next { s with dec := { s.dec with pay := s.dec.pay ++ [b], idx := s.dec.idx + 1#8, dstate := .crc1 } })

/-- R80: trailer byte 0 is discarded, whatever it is. -/
def Obligations.FirstTrailerByteIsDiscarded : Prop :=
  ∀ (s : State) (b : Byte), s.dec.dstate = .crc1 →
    exec (.dCrc1 b) s = .next { s with dec := { s.dec with dstate := .crc2 } }

/-- R81 with R157 and R159: trailer byte 1 completes the message, which is handed to the observer by value or, with none
registered, discarded (the spec's decisions D9, D10); the fresh command is its decision D5, idx staying its D6; the
call standing in obsRun until the observer returns is log 3. -/
def Obligations.SecondTrailerByteDeliversTheMessage : Prop :=
  ∀ (s : State) (b : Byte), s.dec.dstate = .crc2 →
    (s.obs = none →
      exec (.dCrc2 b) s =
        .next { s with dec := { s.dec with cmd := Config.freshCmd, len := 0x00#8, pay := [], dstate := .sync1 } }) ∧
    (∀ f, s.obs = some f →
      exec (.dCrc2 b) s =
        .next { s with
          dec := { s.dec with cmd := Config.freshCmd, len := 0x00#8, pay := [], dstate := .sync1 }
          obsRun := some ⟨f, ⟨s.dec.cmd, s.dec.len, s.dec.pay⟩⟩
          out := { s.out with calls := s.out.calls ++ [⟨f, ⟨s.dec.cmd, s.dec.len, s.dec.pay⟩⟩] } })

/-- R58: every byte selects exactly one arc. Of all operations whose bits are that byte, exactly one has a next state;
that the others are refused is log 14. -/
def Obligations.EveryByteSelectsExactlyOneArc : Prop :=
  ∀ (s : State) (b : Byte),
    ∃ i, ((∃ slot, encode i = some (.rxb slot b)) ∧ ∃ t, exec i s = .next t) ∧
      ∀ j, ((∃ slot, encode j = some (.rxb slot b)) ∧ ∃ t, exec j s = .next t) → j = i

/-- R58, log 14: an arc asked for in a state, or with a byte, that selects another arc has no meaning. -/
def Obligations.AnArcOutOfPlaceIsRefused : Prop :=
  ∀ (s : State) (i : Instr) (slot : Slot) (b : Byte), encode i = some (.rxb slot b) →
    (s.dec.slot ≠ slot ∨ i.wf = false) → exec i s = .refused .arcNotSelected

/-- R53: the listed command values have no special behaviour: each is what D.CMD does with that byte. -/
def Obligations.CommandValuesAreOpaque : Prop :=
  ∀ (s : State) (i : Instr) (b : Byte), encode i = some (.cmdid b) →
    exec i s = exec (.dCmd b) s ∧
    (s.dec.dstate = .cmd → exec i s = .next { s with dec := { s.dec with cmd := b, dstate := .len } })

/-! ## The decoder as a whole -/

/-- R82, the precise form of R34: running over a concatenation is running over the parts, so the division into chunks is
invisible. -/
def Obligations.ChunkingIsInvisible : Prop :=
  (∀ (d : Dec) (xs ys : List Byte),
    decRun d (xs ++ ys) =
      ((decRun (decRun d xs).1 ys).1, (decRun d xs).2 ++ (decRun (decRun d xs).1 ys).2)) ∧
  (∀ (d : Dec) (chunks : List (List Byte)),
    decRun d chunks.flatten =
      chunks.foldl (fun r c => ((decRun r.1 c).1, r.2 ++ (decRun r.1 c).2)) (d, []))

/-- R17, R83: the decoder's table of invariants is kept by every byte, and what is emitted is well formed. -/
def Obligations.DecoderKeepsItsTable : Prop :=
  ∀ (d : Dec) (b : Byte), d.Inv →
    (decStep d b).1.Inv ∧ ∀ m, (decStep d b).2 = some m → m.wf = true

/-- R84: the round trip, that the message is emitted by the last byte and not before, and its extension to any decoder
that hunts with a fresh message and to any number of frames. -/
def Obligations.EncodedFramesDecodeToTheirMessages : Prop :=
  (∀ m : Message, m.wf = true →
    decRun Dec.init (encodeMsg m) =
      ({ dstate := .sync1, cmd := Config.freshCmd, len := 0x00#8, idx := m.length, pay := [] }, [m])) ∧
  (∀ m : Message, m.wf = true → (decRun Dec.init (encodeMsg m).dropLast).2 = []) ∧
  (∀ (m : Message) (d : Dec), m.wf = true → d.dstate = .sync1 → d.Inv →
    decRun d (encodeMsg m) = ({ Dec.init with idx := m.length }, [m])) ∧
  (∀ ms : List Message, (∀ m ∈ ms, m.wf = true) → (decRun Dec.init (ms.flatMap encodeMsg)).2 = ms)

/-- R85: after a transparent prefix a frame is received intact, and the transparent prefixes are exactly the
concatenations of single noise bytes and of lone SYNC bytes followed by one noise byte. -/
def Obligations.TransparentPrefixesKeepTheFrame : Prop :=
  (∀ (p : List Byte) (m : Message), Transparent p → m.wf = true → (decRun Dec.init (p ++ encodeMsg m)).2 = [m]) ∧
  (∀ p : List Byte, Transparent p ↔ Blocks p)

/-- R85 (c), 90_conflicts.md C2: one SYNC byte directly before a frame is not absorbed. The frame's second SYNC is taken
as the command and its command byte as the length, so the rest of the frame is read as the payload of another message (or,
with command byte 0, as the trailer of an empty one). -/
def Obligations.AnExtraSyncShiftsTheFrame : Prop :=
  ∀ m : Message, m.wf = true →
    (m.command ≠ 0x00#8 →
      decRun Dec.init (Config.sync :: encodeMsg m) =
        decRun { dstate := .data, cmd := Config.sync, len := m.command, idx := 0x00#8, pay := [] }
          (m.length :: (m.payload ++ [Config.trailerFill, Config.trailerFill]))) ∧
    (m.command = 0x00#8 →
      decRun Dec.init (Config.sync :: encodeMsg m) =
        decRun { dstate := .crc1, cmd := Config.sync, len := 0x00#8, idx := 0x00#8, pay := [] }
          (m.length :: (m.payload ++ [Config.trailerFill, Config.trailerFill])))

/-- R87: a frame with LENGTH = 0 visits these states and no others, and its payload is empty. -/
def Obligations.LengthZeroSkipsData : Prop :=
  ∀ c t0 t1 : Byte,
    decTrace Dec.init [Config.sync, Config.sync, c, 0x00#8, t0, t1] = [.sync2, .cmd, .len, .crc1, .crc2, .sync1] ∧
    (decRun Dec.init [Config.sync, Config.sync, c, 0x00#8, t0, t1]).2 = [{ command := c, length := 0x00#8, payload := [] }]

/-- R88 (c): from a state that is not SYNC_1, any input of Dec.bound bytes passes through SYNC_1; from DATA, CRC_1 and
CRC_2 exactly at its last byte; and one byte less does not always suffice from SYNC_2, CMD and LEN. -/
def Obligations.TheDecoderHuntsAgainWithinTheBound : Prop :=
  (∀ (d : Dec) (bs : List Byte), d.Inv → d.dstate ≠ .sync1 → bs.length = d.bound →
    DState.sync1 ∈ decTrace d bs) ∧
  (∀ (d : Dec) (bs : List Byte), d.Inv → d.dstate = .data ∨ d.dstate = .crc1 ∨ d.dstate = .crc2 →
    bs.length < d.bound → DState.sync1 ∉ decTrace d bs) ∧
  (∀ d : Dec, d.Inv → d.dstate = .sync2 ∨ d.dstate = .cmd ∨ d.dstate = .len →
    ∃ bs : List Byte, bs.length + 1 = d.bound ∧ DState.sync1 ∉ decTrace d bs)

/-- R88 (b): from every state that meets R17 some input leads to init up to idx. -/
def Obligations.EveryStateLeadsBackToInit : Prop :=
  ∀ d : Dec, d.Inv → ∃ (bs : List Byte) (i : Byte), (decRun d bs).1 = { Dec.init with idx := i }

/-- R88: the transition graph: no other edge exists, and every edge is taken from a state that meets R17. -/
def Obligations.TransitionGraphIsExact : Prop :=
  (∀ (d : Dec) (b : Byte), (decStep d b).1.dstate ∈ successors d.dstate) ∧
  (∀ x y : DState, y ∈ successors x → ∃ (d : Dec) (b : Byte), d.Inv ∧ d.dstate = x ∧ (decStep d b).1.dstate = y)

/-- R86: after a message the registers equal those of init up to idx, and a stale idx is never seen: the same messages
come out, the registers differ at most in idx, and not even there once a LEN arc has been taken. -/
def Obligations.StaleIndexIsNeverSeen : Prop :=
  (∀ (d : Dec) (b : Byte), d.dstate = .crc2 → (decStep d b).1 = { Dec.init with idx := d.idx }) ∧
  (∀ (d : Dec) (i : Byte) (bs : List Byte),
    d.dstate = .sync1 ∨ d.dstate = .sync2 ∨ d.dstate = .cmd ∨ d.dstate = .len →
    (decRun { d with idx := i } bs).2 = (decRun d bs).2 ∧
    (∃ k, (decRun { d with idx := i } bs).1 = { (decRun d bs).1 with idx := k }) ∧
    (DState.data ∈ decTrace d bs ∨ DState.crc1 ∈ decTrace d bs →
      (decRun { d with idx := i } bs).1 = (decRun d bs).1))

/-- R89, R57: once the preamble has been accepted the decoder consumes COMMAND, LENGTH, LENGTH payload bytes and two
trailer bytes, whatever they are (SYNC bytes too), emits that message and hunts again. -/
def Obligations.NoResynchronisationInsideAFrame : Prop :=
  ∀ (d : Dec) (c l t0 t1 : Byte) (p : List Byte), d.dstate = .cmd → d.Inv → p.length = l.toNat →
    decRun d ([c, l] ++ p ++ [t0, t1]) = ({ Dec.init with idx := l }, [{ command := c, length := l, payload := p }]) ∧
    DState.sync1 ∉ decTrace d ([c, l] ++ p ++ [t0]) ∧ DState.sync2 ∉ decTrace d ([c, l] ++ p ++ [t0])

/-! ## The encoder -/

/-- R100, R103, R105: E.ENCODE of a well-formed message returns the frame (out.frame, log 10) and changes nothing else. -/
def Obligations.EncodeReturnsTheFrame : Prop :=
  ∀ (s : State) (m : Message), m.wf = true →
    exec (.eEncode m) s =
      .next { s with out := { s.out with
        frame := [Config.sync, Config.sync, m.command, m.length] ++ m.payload ++ [Config.trailerFill, Config.trailerFill] } }

/-- R101, R106: the byte at every position of the frame, and the frame's length. -/
def Obligations.EncodeByPosition : Prop :=
  ∀ m : Message, m.wf = true →
    (encodeMsg m).length = 6 + m.length.toNat ∧ 6 ≤ (encodeMsg m).length ∧ (encodeMsg m).length ≤ 261 ∧
    ∀ i, i < 6 + m.length.toNat → (encodeMsg m)[i]? = some (encodeByte m i)

/-- R107: the byte-serial realisation presents exactly the bytes of the frame and then none. -/
def Obligations.SerialiserSendsTheFrame : Prop :=
  ∀ (m : Message) (n : Nat), m.wf = true →
    (Serialiser.start m).bytes n = (encodeMsg m).take n

/-- R107 (decision D31, log 29) with R22 and R124: a message sent byte by byte under the write lock, with the transport
draining in between, leaves exactly the block that the atomic append and the same drains leave, so what H.SEND leaves in
txq and on the wire where it succeeds. While it is being sent the lock is held by its sender, no other message is taken,
every H.SEND waits, and what has left so far is the first epos bytes of the frame. It can always be sent to its end where
the whole frame has room. -/
def Obligations.SerialSendIsTheAtomicSend : Prop :=
  (∀ (s : State) (m : Message) (es : List SerialEvent) (x : Serial),
    (∀ e ∈ es, ∀ m', e ≠ .take m') →
    Serial.run { block := s, sending := none } (.take m :: es) = some x →
    (x.sending = none →
      x.block = ({ s with txq := s.txq ++ encodeMsg m } : State).drainAll (SerialEvent.drains es) ∧
      ∀ a, exec (.hSend m) s = .next a → s.drawn 1 = 1 →
        fits Config.txDepth (s.txq.length + (6 + m.length.toNat)) = true →
        x.block.txq = (a.drainAll (SerialEvent.drains es)).txq ∧
        x.block.out.wire = (a.drainAll (SerialEvent.drains es)).out.wire) ∧
    (∀ p, x.sending = some p →
      p.msg = m ∧ x.block.wlock = some s.turn ∧
      x.block.out.wire ++ x.block.txq = s.out.wire ++ s.txq ++ (encodeMsg m).take p.epos.toNat ∧
      (∀ m', x.next (.take m') = none) ∧
      (∀ m', m'.wf = true → exec (.hSend m') x.block = .next (x.block.wait (.hSend m'))))) ∧
  (∀ (s : State) (m : Message),
    s.wlock = none → s.run = true → s.dead = false → m.wf = true →
    fits Config.txDepth (s.txq.length + (6 + m.length.toNat)) = true →
    Serial.run { block := s, sending := none } (.take m :: List.replicate (6 + m.length.toNat) .accept) =
      some { block := { s with txq := s.txq ++ encodeMsg m }, sending := none })

/-- R109: different well-formed messages have different frames. -/
def Obligations.EncodeIsInjective : Prop :=
  ∀ m m' : Message, m.wf = true → m'.wf = true → encodeMsg m = encodeMsg m' → m = m'

/-! ## Bits and operations -/

/-- R50, R53, R58: the bits of every well-formed operation that has bits decode to it. -/
def Obligations.EncodedOperationsDecodeBack : Prop :=
  ∀ i : Instr, Sys2Proof.Laws.CodeRoundTrip.Statement i

/-- The converse: what decodes is well formed, and its bits are the ones it was decoded from. -/
def Obligations.DecodedBitsEncodeBack : Prop :=
  ∀ (c : Code) (i : Instr), decode c = .ok i → i.wf = true ∧ encode i = some c

/-- R3, R4: the named constants, whose values stand here and nowhere else in a statement; and R50, R53, R58: a few words
written out from the spec's tables decode to the operation they stand for. The last clause, a word numbered as the opcode
table numbers it and filled up with zeros, is the model's choice (log 16); FRESH_CMD and RDERR_LIMIT are the spec's
decisions D5 and D15. -/
def Obligations.WrittenOutWordsDecode : Prop :=
  (Config.sync = 0x7E#8 ∧ Config.trailerFill = 0x00#8 ∧ Config.lenMax = 255 ∧ Config.headerBytes = 4 ∧
    Config.trailerBytes = 2 ∧ Config.frameMin = 6 ∧ Config.frameMax = 261 ∧ Config.rdErrLimit = 3 ∧
    Config.freshCmd = 0x00#8 ∧ Config.baudDefault = 115200) ∧
  decode (.rxb .sync1 0b01111110#8) = .ok .dS1Hit ∧
  decode (.rxb .sync2 0b01010101#8) = .ok (.dS2Miss 0x55#8) ∧
  decode (.rxb .len 0b00000000#8) = .ok .dLenZ ∧
  decode (.rxb .dataMore 0b01111110#8) = .ok (.dDataMore 0x7E#8) ∧
  decode (.cmdid 0b00001010#8) = .ok .cmdidStartNewLog ∧
  decode (.frame [0x7E#8, 0x7E#8, 0x00#8, 0x01#8, 0x00#8, 0x00#8, 0x00#8]) = .ok (.eEncode ⟨0x00#8, 0x01#8, [0x00#8]⟩) ∧
  decodeTableWord 16 0x7E7E = some (.eEncode ⟨0x00#8, 0x00#8, []⟩)

/-! ## The step -/

/-- R118, R119: when it is the pump's turn, it can move and has no request, the byte at the head of rxq is decoded in the
decoder's present slot and the step is that arc, with the byte popped (the turn and the schedule as nextTurn leaves them,
log 6; that the pump feeds on such a turn is log 20, that it does not during a stop log 8). -/
def Obligations.StepRunsTheDecodedByte : Prop :=
  ∀ (s : State) (b : Byte) (rest : List Byte) (i : Instr),
    s.nextTurn.turn = .pump → s.run = true → s.obsRun = none → s.stopping = none →
    takeRequest .pump s.env.pending = none →
    s.rxq = b :: rest → decode (.rxb s.dec.slot b) = .ok i →
    step s = exec i { s.nextTurn with rxq := rest }

/-- A request is performed as asked: when the agent whose turn it is can move and its first request is an operation it
has, the step is that operation, with the request taken away; an agent that cannot move lets its turn pass (log 6). R115,
R161, log 19: an operation that the agent does not have is refused, and so is the observer's return asked for by another
agent; the arcs and the COMMAND values are no agent's to ask for. -/
def Obligations.StepPerformsTheRequest : Prop :=
  ∀ (s : State),
    (s.nextTurn.canAct = false → step s = .next s.nextTurn) ∧
    (∀ (i : Instr) (rest : List Request), s.nextTurn.canAct = true →
      takeRequest s.nextTurn.turn s.env.pending = some (.op i, rest) →
      (issuedBy i s.nextTurn.turn = true →
        step s = exec i { s.nextTurn with env := { s.nextTurn.env with pending := rest } }) ∧
      (issuedBy i s.nextTurn.turn = false ∨ (∃ slot b, encode i = some (.rxb slot b)) ∨ (∃ b, encode i = some (.cmdid b)) →
        step s = .refused .notPermitted)) ∧
    (∀ rest : List Request, s.nextTurn.canAct = true → s.nextTurn.turn ≠ .observer →
      takeRequest s.nextTurn.turn s.env.pending = some (.obsReturn, rest) → step s = .refused .notPermitted)

/-- R160: the observer's return ends the invocation and changes nothing else: nothing is restored because nothing was
saved. It is the observer's request, or (log 23) what its turn is without one. -/
def Obligations.TheObserversReturnEndsItsInvocation : Prop :=
  ∀ s : State, s.nextTurn.turn = .observer → s.obsRun ≠ none →
    (∀ rest, takeRequest .observer s.env.pending = some (.obsReturn, rest) →
      step s = .next { s.nextTurn with obsRun := none, env := { s.nextTurn.env with pending := rest } }) ∧
    (takeRequest .observer s.env.pending = none → step s = .next { s.nextTurn with obsRun := none })

/-- R59, R83: no received byte can stop the block: a turn without a request always has a next state. -/
def Obligations.NoReceivedByteStopsTheBlock : Prop :=
  ∀ s : State, takeRequest s.nextTurn.turn s.env.pending = none → ∃ t, step s = .next t

/-! ## The interface operations -/

/-- R116: a chunk goes to the tail of rxq and clears rderr when run = 1 and there is room (decision D2); otherwise the
operation waits (log 7). -/
def Obligations.DeliverAppendsTheChunk : Prop :=
  ∀ (s : State) (bs : List Byte),
    (s.run = true → fits Config.rxDepth (s.rxq.length + bs.length) = true →
      exec (.tRxDeliver bs) s = .next { s with rxq := s.rxq ++ bs, rderr := 0 }) ∧
    (s.run = false ∨ fits Config.rxDepth (s.rxq.length + bs.length) = false →
      exec (.tRxDeliver bs) s = .next (s.wait (.tRxDeliver bs)))

/-- R47: an empty read changes nothing but rderr, which it clears, being a successful read (decision D15). -/
def Obligations.EmptyReadOnlyClearsTheFailureCount : Prop :=
  ∀ s : State, s.run = true → fits Config.rxDepth s.rxq.length = true →
    exec (.tRxDeliver []) s = .next { s with rderr := 0 }

/-- R154 (decision D15): a failed read is counted up to 3, the third in a row sets the sticky link_lost, and nothing else
changes; while run = 0 the operation waits (log 7). -/
def Obligations.FailedReadIsCounted : Prop :=
  ∀ s : State,
    (s.run = true → s.rderr + 1 < Config.rdErrLimit → exec .tRxError s = .next { s with rderr := s.rderr + 1 }) ∧
    (s.run = true → Config.rdErrLimit ≤ s.rderr + 1 →
      exec .tRxError s = .next { s with rderr := Config.rdErrLimit, linkLost := true }) ∧
    (s.run = false → exec .tRxError s = .next (s.wait .tRxError))

/-- R118: the head of rxq is popped and run through the decoder step, and a completed message is delivered, or with no
observer discarded (R157, decision D10); the operation waits while run = 0, while rxq is empty, and while the observer runs
(log 3, log 7). -/
def Obligations.ConsumeFeedsTheHeadOfTheQueue : Prop :=
  ∀ (s : State),
    (∀ (b : Byte) (rest : List Byte), s.run = true → s.rxq = b :: rest → s.obsRun = none →
      ((decStep s.dec b).2 = none →
        exec .pRxConsume s = .next { s with rxq := rest, dec := (decStep s.dec b).1 }) ∧
      (∀ m, (decStep s.dec b).2 = some m → s.obs = none →
        exec .pRxConsume s = .next { s with rxq := rest, dec := (decStep s.dec b).1 }) ∧
      (∀ m f, (decStep s.dec b).2 = some m → s.obs = some f →
        exec .pRxConsume s =
          .next { s with
            rxq := rest
            dec := (decStep s.dec b).1
            obsRun := some ⟨f, m⟩
            out := { s.out with calls := s.out.calls ++ [⟨f, m⟩] } })) ∧
    (s.run = false ∨ s.rxq = [] ∨ s.obsRun ≠ none → exec .pRxConsume s = .next (s.wait .pRxConsume))

/-- R128: the first k bytes of txq go to the wire, in order, and nothing else changes. -/
def Obligations.DrainMovesTheHeadToTheWire : Prop :=
  ∀ (s : State) (k : Nat), 1 ≤ k → k ≤ s.txq.length →
    exec (.tTxDrain k) s =
      .next { s with txq := s.txq.drop k, out := { s.out with wire := s.out.wire ++ s.txq.take k } }

/-- Log 18: a drain of more bytes than txq holds waits. -/
def Obligations.DrainWaitsForItsBytes : Prop :=
  ∀ (s : State) (k : Nat), s.txq.length < k → exec (.tTxDrain k) s = .next (s.wait (.tTxDrain k))

/-- R121, R152: a start opens the connection or kills the instance, as the environment's draw says; obs is kept either
way. The draw is log 5, the instance's death the spec's decision D18, what a failed start leaves alone log 13. -/
def Obligations.StartOpensOrKills : Prop :=
  ∀ (s : State) (transportId : String) (baudRate : Int),
    s.run = false → s.dead = false → s.turn ≠ .observer →
    (s.drawn 1 = 1 →
      exec (.hStart transportId baudRate) s =
        .next { s with
          dec := { dstate := .sync1, cmd := Config.freshCmd, len := 0x00#8, idx := 0x00#8, pay := [] }
          rxq := [], txq := [], wlock := none, rderr := 0, linkLost := false, run := true
          out := { s.out with opened := s.out.opened ++ [(transportId, baudRate)] }
          env := s.afterDraw.env }) ∧
    (s.drawn 1 ≠ 1 →
      exec (.hStart transportId baudRate) s =
        .next { s with
          dec := { dstate := .sync1, cmd := Config.freshCmd, len := 0x00#8, idx := 0x00#8, pay := [] }
          rxq := [], txq := [], wlock := none, dead := true
          out := { s.out with
            opened := s.out.opened ++ [(transportId, baudRate)]
            raised := s.out.raised ++ [{ who := s.turn, err := .unavailable }] }
          env := s.afterDraw.env })

/-- R123 (decision D11): the last registration wins, at any time, and nothing else changes. -/
def Obligations.LastRegistrationWins : Prop :=
  ∀ (s : State) (cb : CallbackId), exec (.hSetObs cb) s = .next { s with obs := some cb }

/-- R124, R153: when a send is enabled, the environment's draw (log 5) says whether the whole frame goes to the tail of
txq, or some first part of it and TransportWriteError to the sender; nothing else changes. Every length of that part is
admitted. -/
def Obligations.SendAppendsTheFrameOrAPartOfIt : Prop :=
  ∀ (s : State) (m : Message),
    s.dead = false → s.run = true → m.wf = true → s.wlock = none →
    fits Config.txDepth (s.txq.length + (6 + m.length.toNat)) = true →
    (s.drawn 1 = 1 →
      exec (.hSend m) s = .next { s with txq := s.txq ++ encodeMsg m, env := s.afterDraw.env }) ∧
    (s.drawn 1 ≠ 1 → ∃ n, n ≤ 6 + m.length.toNat ∧
      exec (.hSend m) s =
        .next { s with
          txq := s.txq ++ (encodeMsg m).take n
          out := { s.out with raised := s.out.raised ++ [{ who := s.turn, err := .writeError }] }
          env := s.afterDraw.afterDraw.env }) ∧
    (∀ n cs, n ≤ 6 + m.length.toNat → s.env.choices = 0 :: n :: cs →
      exec (.hSend m) s =
        .next { s with
          txq := s.txq ++ (encodeMsg m).take n
          out := { s.out with raised := s.out.raised ++ [{ who := s.turn, err := .writeError }] }
          env := { s.env with choices := cs } })

/-- R125: a send that finds no room, or the lock held, waits; and a frame always fits an empty txq (decision D3). -/
def Obligations.SendWaitsForRoom : Prop :=
  (∀ (s : State) (m : Message),
    s.dead = false → s.run = true → m.wf = true →
    (s.wlock ≠ none ∨ fits Config.txDepth (s.txq.length + (6 + m.length.toNat)) = false) →
    exec (.hSend m) s = .next (s.wait (.hSend m))) ∧
  (∀ m : Message, fits Config.txDepth (0 + (6 + m.length.toNat)) = true)

/-- R129: a stop performs the residual consume steps it has drawn. Where they call no observer it ends the connection, with
some number of bytes still sent; where one calls the observer the stop is held up by it, and goes on with the steps left
once it has returned (log 8). Every number of residual steps and of bytes sent is admitted (decision D17, log 5). -/
def Obligations.StopEndsTheConnection : Prop :=
  ∀ s : State, s.run = true → s.dead = false → s.turn ≠ .observer → s.obsRun = none →
    (s.stopping = none →
      (callsOf s.obs (decRun s.dec (s.rxq.take (s.drawn s.rxq.length))).2 = [] →
        ∃ k t, k ≤ s.txq.length ∧ exec .hStop s = .next t ∧ Stopped s t (s.drawn s.rxq.length) k) ∧
      (callsOf s.obs (decRun s.dec (s.rxq.take (s.drawn s.rxq.length))).2 ≠ [] →
        ∃ t, exec .hStop s = .next t ∧ HeldUp s.afterDraw t (s.drawn s.rxq.length)) ∧
      (∀ j k cs, j ≤ s.rxq.length → k ≤ s.txq.length → s.env.choices = j :: k :: cs →
        callsOf s.obs (decRun s.dec (s.rxq.take j)).2 = [] →
        ∃ t, exec .hStop s = .next t ∧ Stopped s t j k ∧ t.env.choices = cs) ∧
      (∀ j cs, j ≤ s.rxq.length → s.env.choices = j :: cs →
        callsOf s.obs (decRun s.dec (s.rxq.take j)).2 ≠ [] →
        ∃ t, exec .hStop s = .next t ∧ HeldUp { s with env := { s.env with choices := cs } } t j)) ∧
    (∀ n, n ≤ s.rxq.length → s.stopping = some { who := s.turn, left := n } →
      (callsOf s.obs (decRun s.dec (s.rxq.take n)).2 = [] →
        (∃ k t, k ≤ s.txq.length ∧ exec .hStop s = .next t ∧ Stopped s t n k) ∧
        (∀ k cs, k ≤ s.txq.length → s.env.choices = k :: cs →
          ∃ t, exec .hStop s = .next t ∧ Stopped s t n k ∧ t.env.choices = cs)) ∧
      (callsOf s.obs (decRun s.dec (s.rxq.take n)).2 ≠ [] →
        ∃ t, exec .hStop s = .next t ∧ HeldUp s t n))

/-- R129 as a whole: a stop whose observer asks for nothing (its turns return, log 23) ends the connection with j residual
bytes decoded, the messages they complete delivered in order, and k bytes sent, for every j and k (log 5, log 6, log 8). -/
def Obligations.StopEndsAfterItsObserversReturn : Prop :=
  ∀ (s : State) (n j k : Nat) (cs : List Nat) (later : List Agent),
    s.run = true → s.dead = false → s.obsRun = none → s.stopping = none →
    s.env.pending = [{ agent := .caller n, act := .op .hStop }] →
    j ≤ s.rxq.length → k ≤ s.txq.length → s.env.choices = j :: k :: cs →
    s.env.sched =
      (List.replicate (callsOf s.obs (decRun s.dec (s.rxq.take j)).2).length [Agent.caller n, Agent.observer]).flatten
        ++ .caller n :: later →
    ∃ t, Sys2Proof.core.run (2 * (callsOf s.obs (decRun s.dec (s.rxq.take j)).2).length + 1) s = .next t ∧
      Stopped { s with turn := .caller n, env := { s.env with sched := later, pending := [] } } t j k ∧
      t.env.choices = cs

/-- R129, log 8: a stop from another thread waits while the observer runs, and while another agent's stop is in
progress. -/
def Obligations.StopWaitsForTheObserver : Prop :=
  ∀ s : State, s.run = true → s.dead = false → s.turn ≠ .observer →
    (s.obsRun ≠ none ∨ ∃ st, s.stopping = some st ∧ st.who ≠ s.turn) →
    exec .hStop s = .next (s.wait .hStop)

/-- R102, R130: what has no meaning (decisions D12, D16, D18, D28). -/
def Obligations.MisuseIsRefused : Prop :=
  ∀ (s : State) (transportId : String) (baudRate : Int) (m : Message),
    (s.turn = .observer →
      exec (.hStart transportId baudRate) s = .refused .insideObserver ∧ exec .hStop s = .refused .insideObserver) ∧
    (s.turn ≠ .observer → s.dead = true →
      exec (.hStart transportId baudRate) s = .refused .deadInstance ∧ exec .hStop s = .refused .deadInstance) ∧
    (s.dead = true → exec (.hSend m) s = .refused .deadInstance) ∧
    (s.turn ≠ .observer → s.dead = false → s.run = true →
      exec (.hStart transportId baudRate) s = .refused .alreadyRunning) ∧
    (s.turn ≠ .observer → s.dead = false → s.run = false → exec .hStop s = .refused .notRunning) ∧
    (s.dead = false → s.run = false → exec (.hSend m) s = .refused .notRunning) ∧
    (m.wf = false → exec (.eEncode m) s = .refused .illFormedMessage) ∧
    (s.dead = false → s.run = true → m.wf = false → exec (.hSend m) s = .refused .illFormedMessage) ∧
    exec (.tTxDrain 0) s = .refused .drainOfNothing

/-- R42: the receive operations neither read nor write the transmit side. -/
def Obligations.ReceivingIgnoresTheTransmitSide : Prop :=
  ∀ (s t : State) (i : Instr) (q : List Byte) (w : Option Agent),
    issuedBy i .rxSide = true ∨ issuedBy i .pump = true →
    exec i s = .next t →
    t.txq = s.txq ∧ t.wlock = s.wlock ∧ t.out.wire = s.out.wire ∧
    exec i { s with txq := q, wlock := w } = .next { t with txq := q, wlock := w }

/-- R42: the transmit operations neither read nor write the receive side. -/
def Obligations.SendingIgnoresTheReceiveSide : Prop :=
  ∀ (s t : State) (i : Instr) (q : List Byte) (d : Dec) (o : Option CallbackId) (n : Nat) (l : Bool),
    (∃ m, i = .hSend m ∨ i = .eEncode m) ∨ issuedBy i .txSide = true →
    exec i s = .next t →
    (t.rxq = s.rxq ∧ t.dec = s.dec ∧ t.obs = s.obs ∧ t.rderr = s.rderr ∧ t.linkLost = s.linkLost ∧
      t.obsRun = s.obsRun ∧ t.out.calls = s.out.calls) ∧
    exec i { s with rxq := q, dec := d, obs := o, rderr := n, linkLost := l } =
      .next { t with rxq := q, dec := d, obs := o, rderr := n, linkLost := l }

/-! ## Rules of the whole machine -/

/-- The block's invariant (R17, R20 to R23, R130, R154, R170) is kept by every step, whatever the agents do. -/
def Obligations.EveryStepKeepsTheInvariant : Prop :=
  ∀ s t : State, s.Inv → step s = .next t → t.Inv

/-- R39, R40, R117, R118: in n alternating turns of the pump (which feeds, log 20) and of an observer that returns (log
23), with no requests pending and the turns as scheduled (log 6), the first n bytes of rxq go through the decoder in order
and the messages they complete reach the observer in order; the block is otherwise as before. -/
def Obligations.ThePumpFeedsTheBytesInOrder : Prop :=
  ∀ (s : State) (n : Nat) (later : List Agent),
    s.run = true → s.obsRun = none → s.stopping = none → s.env.pending = [] → n ≤ s.rxq.length →
    s.env.sched = (List.replicate n [Agent.pump, Agent.observer]).flatten ++ later →
    ∃ a, Sys2Proof.core.run (2 * n) s =
      .next { s with
        dec := (decRun s.dec (s.rxq.take n)).1
        rxq := s.rxq.drop n
        turn := a
        out := { s.out with calls := s.out.calls ++ callsOf s.obs (decRun s.dec (s.rxq.take n)).2 }
        env := { s.env with sched := later } }

/-- R39, R46, R116, R118, R129: whatever the agents do, a step leaves rxq and the decoder as they are (a start on an empty
rxq initialises the decoder), or appends a delivered chunk to rxq, or takes bytes from the head of rxq through the decoder
in order and calls the observer with the messages they complete (one byte, or in a stop several), or ends the connection by
a stop after doing so. No byte is skipped, repeated or invented, and only a stop drops bytes. -/
def Obligations.ReceivedBytesKeepTheirOrder : Prop :=
  ∀ s t : State, s.Inv → step s = .next t →
    (t.rxq = s.rxq ∧ t.out.calls = s.out.calls ∧ (t.dec = s.dec ∨ (s.run = false ∧ s.rxq = [] ∧ t.dec = Dec.init))) ∨
    (∃ bs rest, takeRequest s.nextTurn.turn s.env.pending = some (.op (.tRxDeliver bs), rest) ∧ s.run = true ∧
      t.rxq = s.rxq ++ bs ∧ t.out.calls = s.out.calls ∧ t.dec = s.dec) ∨
    (∃ n, 1 ≤ n ∧ n ≤ s.rxq.length ∧ s.run = true ∧ s.obsRun = none ∧ t.run = true ∧
      (n = 1 ∨ ∃ rest, takeRequest s.nextTurn.turn s.env.pending = some (.op .hStop, rest)) ∧
      t.rxq = s.rxq.drop n ∧ t.dec = (decRun s.dec (s.rxq.take n)).1 ∧
      t.out.calls = s.out.calls ++ callsOf s.obs (decRun s.dec (s.rxq.take n)).2) ∨
    (∃ n rest, takeRequest s.nextTurn.turn s.env.pending = some (.op .hStop, rest) ∧
      n ≤ s.rxq.length ∧ s.run = true ∧ s.obsRun = none ∧ t.run = false ∧ t.rxq = [] ∧
      t.out.calls = s.out.calls ++ callsOf s.obs (decRun s.dec (s.rxq.take n)).2)

/-- R158, R160, R181: while the observer runs no step feeds the decoder or adds a call, rxq only grows, and the invocation
ends only on the observer's own turn. -/
def Obligations.NothingIsDecodedWhileTheObserverRuns : Prop :=
  ∀ (s t : State) (c : Call), s.Inv → s.obsRun = some c → step s = .next t →
    t.dec = s.dec ∧ t.out.calls = s.out.calls ∧ s.rxq <+: t.rxq ∧ t.run = true ∧
    (t.obsRun = some c ∨ (s.nextTurn.turn = .observer ∧ t.obsRun = none))

/-- R43, R129: while run = 0 no step calls the observer, and the decoder's registers change only by being initialised. -/
def Obligations.NothingIsDecodedWhileStopped : Prop :=
  ∀ s t : State, s.run = false → s.obsRun = none → step s = .next t →
    t.out.calls = s.out.calls ∧ t.obsRun = none ∧ (t.dec = s.dec ∨ t.dec = Dec.init)

/-- R18, R152: a dead instance stays dead and never runs (decision D18). -/
def Obligations.DeadInstancesNeverRun : Prop :=
  ∀ s t : State, s.dead = true → s.run = false → step s = .next t → t.dead = true ∧ t.run = false

/-- R154: link_lost is cleared only by a start. -/
def Obligations.OnlyAStartClearsLinkLost : Prop :=
  ∀ s t : State, step s = .next t → s.linkLost = true → t.linkLost = false →
    (∃ transportId baudRate rest,
      takeRequest s.nextTurn.turn s.env.pending = some (.op (.hStart transportId baudRate), rest)) ∧
    s.run = false ∧ t.run = true

/-- R19, R123: the observer changes only by a registration, and to the one registered. -/
def Obligations.OnlyARegistrationChangesTheObserver : Prop :=
  ∀ s t : State, step s = .next t → t.obs ≠ s.obs →
    ∃ cb rest, takeRequest s.nextTurn.turn s.env.pending = some (.op (.hSetObs cb), rest) ∧ t.obs = some cb

/-- R63, R159: calls are only added, each to the registered observer, and each with length = |payload|. -/
def Obligations.CallsAreAddedWellFormed : Prop :=
  ∀ s t : State, s.Inv → step s = .next t →
    ∃ new, t.out.calls = s.out.calls ++ new ∧ ∀ c ∈ new, s.obs = some c.observer ∧ c.msg.wf = true

/-- R41, R46, R129: bytes reach the wire from the head of txq in order, none skipped, repeated or invented; what is added
to txq is the beginning of one frame; only a stop drops bytes. -/
def Obligations.TransmittedBytesKeepTheirOrder : Prop :=
  ∀ s t : State, s.Inv → step s = .next t →
    ∃ sent more, t.out.wire = s.out.wire ++ sent ∧ sent <+: s.txq ∧
      (more = [] ∨ ∃ m n, m.wf = true ∧ more = (encodeMsg m).take n) ∧
      (s.txq ++ more = sent ++ t.txq ∨ (t.txq = [] ∧ s.run = true ∧ t.run = false))

/-- R155: an error is raised only to the agent whose operation caused it, and a read error to nobody. -/
def Obligations.ErrorsAreRaisedToTheirCause : Prop :=
  ∀ s t : State, step s = .next t →
    t.out.raised = s.out.raised ∨
    (∃ transportId baudRate rest,
      takeRequest s.nextTurn.turn s.env.pending = some (.op (.hStart transportId baudRate), rest) ∧
      t.out.raised = s.out.raised ++ [{ who := s.nextTurn.turn, err := .unavailable }]) ∨
    (∃ m rest,
      takeRequest s.nextTurn.turn s.env.pending = some (.op (.hSend m), rest) ∧
      t.out.raised = s.out.raised ++ [{ who := s.nextTurn.turn, err := .writeError }])
end

