-- ==== Sys2Proof/Laws/State.lean ====
section
/-! SUPPORT. One lemma for each field and each named update of State, so that no proof unfolds a record update. -/

namespace Sys2Proof.Machine.State

variable (s : State)

/-! wait -/

@[simp] theorem wait_dec (i : Instr) : (s.wait i).dec = s.dec := rfl
@[simp] theorem wait_run (i : Instr) : (s.wait i).run = s.run := rfl
@[simp] theorem wait_dead (i : Instr) : (s.wait i).dead = s.dead := rfl
@[simp] theorem wait_obs (i : Instr) : (s.wait i).obs = s.obs := rfl
@[simp] theorem wait_rxq (i : Instr) : (s.wait i).rxq = s.rxq := rfl
@[simp] theorem wait_txq (i : Instr) : (s.wait i).txq = s.txq := rfl
@[simp] theorem wait_wlock (i : Instr) : (s.wait i).wlock = s.wlock := rfl
@[simp] theorem wait_rderr (i : Instr) : (s.wait i).rderr = s.rderr := rfl
@[simp] theorem wait_linkLost (i : Instr) : (s.wait i).linkLost = s.linkLost := rfl
@[simp] theorem wait_obsRun (i : Instr) : (s.wait i).obsRun = s.obsRun := rfl
@[simp] theorem wait_stopping (i : Instr) : (s.wait i).stopping = s.stopping := rfl
@[simp] theorem wait_out (i : Instr) : (s.wait i).out = s.out := rfl
@[simp] theorem wait_turn (i : Instr) : (s.wait i).turn = s.turn := rfl
@[simp] theorem wait_env (i : Instr) : (s.wait i).env = { s.env with pending := { agent := s.turn, act := .op i } :: s.env.pending } := rfl

/-! raise -/

@[simp] theorem raise_dec (e : TransportError) : (s.raise e).dec = s.dec := rfl
@[simp] theorem raise_run (e : TransportError) : (s.raise e).run = s.run := rfl
@[simp] theorem raise_dead (e : TransportError) : (s.raise e).dead = s.dead := rfl
@[simp] theorem raise_obs (e : TransportError) : (s.raise e).obs = s.obs := rfl
@[simp] theorem raise_rxq (e : TransportError) : (s.raise e).rxq = s.rxq := rfl
@[simp] theorem raise_txq (e : TransportError) : (s.raise e).txq = s.txq := rfl
@[simp] theorem raise_wlock (e : TransportError) : (s.raise e).wlock = s.wlock := rfl
@[simp] theorem raise_rderr (e : TransportError) : (s.raise e).rderr = s.rderr := rfl
@[simp] theorem raise_linkLost (e : TransportError) : (s.raise e).linkLost = s.linkLost := rfl
@[simp] theorem raise_obsRun (e : TransportError) : (s.raise e).obsRun = s.obsRun := rfl
@[simp] theorem raise_stopping (e : TransportError) : (s.raise e).stopping = s.stopping := rfl
@[simp] theorem raise_out (e : TransportError) : (s.raise e).out = { s.out with raised := s.out.raised ++ [{ who := s.turn, err := e }] } := rfl
@[simp] theorem raise_turn (e : TransportError) : (s.raise e).turn = s.turn := rfl
@[simp] theorem raise_env (e : TransportError) : (s.raise e).env = s.env := rfl

/-! obsReturn -/

@[simp] theorem obsReturn_dec : s.obsReturn.dec = s.dec := rfl
@[simp] theorem obsReturn_run : s.obsReturn.run = s.run := rfl
@[simp] theorem obsReturn_dead : s.obsReturn.dead = s.dead := rfl
@[simp] theorem obsReturn_obs : s.obsReturn.obs = s.obs := rfl
@[simp] theorem obsReturn_rxq : s.obsReturn.rxq = s.rxq := rfl
@[simp] theorem obsReturn_txq : s.obsReturn.txq = s.txq := rfl
@[simp] theorem obsReturn_wlock : s.obsReturn.wlock = s.wlock := rfl
@[simp] theorem obsReturn_rderr : s.obsReturn.rderr = s.rderr := rfl
@[simp] theorem obsReturn_linkLost : s.obsReturn.linkLost = s.linkLost := rfl
@[simp] theorem obsReturn_obsRun : s.obsReturn.obsRun = none := rfl
@[simp] theorem obsReturn_stopping : s.obsReturn.stopping = s.stopping := rfl
@[simp] theorem obsReturn_out : s.obsReturn.out = s.out := rfl
@[simp] theorem obsReturn_turn : s.obsReturn.turn = s.turn := rfl
@[simp] theorem obsReturn_env : s.obsReturn.env = s.env := rfl

/-! failRead -/

@[simp] theorem failRead_dec : s.failRead.dec = s.dec := rfl
@[simp] theorem failRead_run : s.failRead.run = s.run := rfl
@[simp] theorem failRead_dead : s.failRead.dead = s.dead := rfl
@[simp] theorem failRead_obs : s.failRead.obs = s.obs := rfl
@[simp] theorem failRead_rxq : s.failRead.rxq = s.rxq := rfl
@[simp] theorem failRead_txq : s.failRead.txq = s.txq := rfl
@[simp] theorem failRead_wlock : s.failRead.wlock = s.wlock := rfl
@[simp] theorem failRead_rderr : s.failRead.rderr = rdErrNext s.rderr := rfl
@[simp] theorem failRead_linkLost : s.failRead.linkLost = linkLostNext s.linkLost (rdErrNext s.rderr) := rfl
@[simp] theorem failRead_obsRun : s.failRead.obsRun = s.obsRun := rfl
@[simp] theorem failRead_stopping : s.failRead.stopping = s.stopping := rfl
@[simp] theorem failRead_out : s.failRead.out = s.out := rfl
@[simp] theorem failRead_turn : s.failRead.turn = s.turn := rfl
@[simp] theorem failRead_env : s.failRead.env = s.env := rfl

/-! okRead -/

@[simp] theorem okRead_dec : s.okRead.dec = s.dec := rfl
@[simp] theorem okRead_run : s.okRead.run = s.run := rfl
@[simp] theorem okRead_dead : s.okRead.dead = s.dead := rfl
@[simp] theorem okRead_obs : s.okRead.obs = s.obs := rfl
@[simp] theorem okRead_rxq : s.okRead.rxq = s.rxq := rfl
@[simp] theorem okRead_txq : s.okRead.txq = s.txq := rfl
@[simp] theorem okRead_wlock : s.okRead.wlock = s.wlock := rfl
@[simp] theorem okRead_rderr : s.okRead.rderr = 0 := rfl
@[simp] theorem okRead_linkLost : s.okRead.linkLost = s.linkLost := rfl
@[simp] theorem okRead_obsRun : s.okRead.obsRun = s.obsRun := rfl
@[simp] theorem okRead_stopping : s.okRead.stopping = s.stopping := rfl
@[simp] theorem okRead_out : s.okRead.out = s.out := rfl
@[simp] theorem okRead_turn : s.okRead.turn = s.turn := rfl
@[simp] theorem okRead_env : s.okRead.env = s.env := rfl

/-! freshConnection -/

@[simp] theorem freshConnection_dec : s.freshConnection.dec = Dec.init := rfl
@[simp] theorem freshConnection_run : s.freshConnection.run = s.run := rfl
@[simp] theorem freshConnection_dead : s.freshConnection.dead = s.dead := rfl
@[simp] theorem freshConnection_obs : s.freshConnection.obs = s.obs := rfl
@[simp] theorem freshConnection_rxq : s.freshConnection.rxq = [] := rfl
@[simp] theorem freshConnection_txq : s.freshConnection.txq = [] := rfl
@[simp] theorem freshConnection_wlock : s.freshConnection.wlock = none := rfl
@[simp] theorem freshConnection_rderr : s.freshConnection.rderr = s.rderr := rfl
@[simp] theorem freshConnection_linkLost : s.freshConnection.linkLost = s.linkLost := rfl
@[simp] theorem freshConnection_obsRun : s.freshConnection.obsRun = s.obsRun := rfl
@[simp] theorem freshConnection_stopping : s.freshConnection.stopping = s.stopping := rfl
@[simp] theorem freshConnection_out : s.freshConnection.out = s.out := rfl
@[simp] theorem freshConnection_turn : s.freshConnection.turn = s.turn := rfl
@[simp] theorem freshConnection_env : s.freshConnection.env = s.env := rfl

/-! discardDec -/

@[simp] theorem discardDec_dec : s.discardDec.dec = discardedDec s.env.drawn := rfl
@[simp] theorem discardDec_run : s.discardDec.run = s.run := rfl
@[simp] theorem discardDec_dead : s.discardDec.dead = s.dead := rfl
@[simp] theorem discardDec_obs : s.discardDec.obs = s.obs := rfl
@[simp] theorem discardDec_rxq : s.discardDec.rxq = s.rxq := rfl
@[simp] theorem discardDec_txq : s.discardDec.txq = s.txq := rfl
@[simp] theorem discardDec_wlock : s.discardDec.wlock = s.wlock := rfl
@[simp] theorem discardDec_rderr : s.discardDec.rderr = s.rderr := rfl
@[simp] theorem discardDec_linkLost : s.discardDec.linkLost = s.linkLost := rfl
@[simp] theorem discardDec_obsRun : s.discardDec.obsRun = s.obsRun := rfl
@[simp] theorem discardDec_stopping : s.discardDec.stopping = s.stopping := rfl
@[simp] theorem discardDec_out : s.discardDec.out = s.out := rfl
@[simp] theorem discardDec_turn : s.discardDec.turn = s.turn := rfl
@[simp] theorem discardDec_env : s.discardDec.env = { s.env with drawn := s.env.drawn + 3 } := rfl

/-! drain -/

@[simp] theorem drain_dec (k : Nat) : (s.drain k).dec = s.dec := rfl
@[simp] theorem drain_run (k : Nat) : (s.drain k).run = s.run := rfl
@[simp] theorem drain_dead (k : Nat) : (s.drain k).dead = s.dead := rfl
@[simp] theorem drain_obs (k : Nat) : (s.drain k).obs = s.obs := rfl
@[simp] theorem drain_rxq (k : Nat) : (s.drain k).rxq = s.rxq := rfl
@[simp] theorem drain_txq (k : Nat) : (s.drain k).txq = s.txq.drop k := rfl
@[simp] theorem drain_wlock (k : Nat) : (s.drain k).wlock = s.wlock := rfl
@[simp] theorem drain_rderr (k : Nat) : (s.drain k).rderr = s.rderr := rfl
@[simp] theorem drain_linkLost (k : Nat) : (s.drain k).linkLost = s.linkLost := rfl
@[simp] theorem drain_obsRun (k : Nat) : (s.drain k).obsRun = s.obsRun := rfl
@[simp] theorem drain_stopping (k : Nat) : (s.drain k).stopping = s.stopping := rfl
@[simp] theorem drain_out (k : Nat) : (s.drain k).out = { s.out with wire := s.out.wire ++ s.txq.take k } := rfl
@[simp] theorem drain_turn (k : Nat) : (s.drain k).turn = s.turn := rfl
@[simp] theorem drain_env (k : Nat) : (s.drain k).env = s.env := rfl

/-! lock -/

@[simp] theorem lock_dec : s.lock.dec = s.dec := rfl
@[simp] theorem lock_run : s.lock.run = s.run := rfl
@[simp] theorem lock_dead : s.lock.dead = s.dead := rfl
@[simp] theorem lock_obs : s.lock.obs = s.obs := rfl
@[simp] theorem lock_rxq : s.lock.rxq = s.rxq := rfl
@[simp] theorem lock_txq : s.lock.txq = s.txq := rfl
@[simp] theorem lock_wlock : s.lock.wlock = some s.turn := rfl
@[simp] theorem lock_rderr : s.lock.rderr = s.rderr := rfl
@[simp] theorem lock_linkLost : s.lock.linkLost = s.linkLost := rfl
@[simp] theorem lock_obsRun : s.lock.obsRun = s.obsRun := rfl
@[simp] theorem lock_stopping : s.lock.stopping = s.stopping := rfl
@[simp] theorem lock_out : s.lock.out = s.out := rfl
@[simp] theorem lock_turn : s.lock.turn = s.turn := rfl
@[simp] theorem lock_env : s.lock.env = s.env := rfl

/-! unlock -/

@[simp] theorem unlock_dec : s.unlock.dec = s.dec := rfl
@[simp] theorem unlock_run : s.unlock.run = s.run := rfl
@[simp] theorem unlock_dead : s.unlock.dead = s.dead := rfl
@[simp] theorem unlock_obs : s.unlock.obs = s.obs := rfl
@[simp] theorem unlock_rxq : s.unlock.rxq = s.rxq := rfl
@[simp] theorem unlock_txq : s.unlock.txq = s.txq := rfl
@[simp] theorem unlock_wlock : s.unlock.wlock = none := rfl
@[simp] theorem unlock_rderr : s.unlock.rderr = s.rderr := rfl
@[simp] theorem unlock_linkLost : s.unlock.linkLost = s.linkLost := rfl
@[simp] theorem unlock_obsRun : s.unlock.obsRun = s.obsRun := rfl
@[simp] theorem unlock_stopping : s.unlock.stopping = s.stopping := rfl
@[simp] theorem unlock_out : s.unlock.out = s.out := rfl
@[simp] theorem unlock_turn : s.unlock.turn = s.turn := rfl
@[simp] theorem unlock_env : s.unlock.env = s.env := rfl

/-! append -/

@[simp] theorem append_dec (bs : List Byte) : (s.append bs).dec = s.dec := rfl
@[simp] theorem append_run (bs : List Byte) : (s.append bs).run = s.run := rfl
@[simp] theorem append_dead (bs : List Byte) : (s.append bs).dead = s.dead := rfl
@[simp] theorem append_obs (bs : List Byte) : (s.append bs).obs = s.obs := rfl
@[simp] theorem append_rxq (bs : List Byte) : (s.append bs).rxq = s.rxq := rfl
@[simp] theorem append_txq (bs : List Byte) : (s.append bs).txq = s.txq ++ bs := rfl
@[simp] theorem append_wlock (bs : List Byte) : (s.append bs).wlock = s.wlock := rfl
@[simp] theorem append_rderr (bs : List Byte) : (s.append bs).rderr = s.rderr := rfl
@[simp] theorem append_linkLost (bs : List Byte) : (s.append bs).linkLost = s.linkLost := rfl
@[simp] theorem append_obsRun (bs : List Byte) : (s.append bs).obsRun = s.obsRun := rfl
@[simp] theorem append_stopping (bs : List Byte) : (s.append bs).stopping = s.stopping := rfl
@[simp] theorem append_out (bs : List Byte) : (s.append bs).out = s.out := rfl
@[simp] theorem append_turn (bs : List Byte) : (s.append bs).turn = s.turn := rfl
@[simp] theorem append_env (bs : List Byte) : (s.append bs).env = s.env := rfl

/-! askOpen -/

@[simp] theorem askOpen_dec (t : String) (r : Int) : (s.askOpen t r).dec = s.dec := rfl
@[simp] theorem askOpen_run (t : String) (r : Int) : (s.askOpen t r).run = s.run := rfl
@[simp] theorem askOpen_dead (t : String) (r : Int) : (s.askOpen t r).dead = s.dead := rfl
@[simp] theorem askOpen_obs (t : String) (r : Int) : (s.askOpen t r).obs = s.obs := rfl
@[simp] theorem askOpen_rxq (t : String) (r : Int) : (s.askOpen t r).rxq = s.rxq := rfl
@[simp] theorem askOpen_txq (t : String) (r : Int) : (s.askOpen t r).txq = s.txq := rfl
@[simp] theorem askOpen_wlock (t : String) (r : Int) : (s.askOpen t r).wlock = s.wlock := rfl
@[simp] theorem askOpen_rderr (t : String) (r : Int) : (s.askOpen t r).rderr = s.rderr := rfl
@[simp] theorem askOpen_linkLost (t : String) (r : Int) : (s.askOpen t r).linkLost = s.linkLost := rfl
@[simp] theorem askOpen_obsRun (t : String) (r : Int) : (s.askOpen t r).obsRun = s.obsRun := rfl
@[simp] theorem askOpen_stopping (t : String) (r : Int) : (s.askOpen t r).stopping = s.stopping := rfl
@[simp] theorem askOpen_out (t : String) (r : Int) : (s.askOpen t r).out = { s.out with opened := s.out.opened ++ [(t, r)] } := rfl
@[simp] theorem askOpen_turn (t : String) (r : Int) : (s.askOpen t r).turn = s.turn := rfl
@[simp] theorem askOpen_env (t : String) (r : Int) : (s.askOpen t r).env = s.env := rfl

/-! afterDraw -/

@[simp] theorem afterDraw_dec : s.afterDraw.dec = s.dec := rfl
@[simp] theorem afterDraw_run : s.afterDraw.run = s.run := rfl
@[simp] theorem afterDraw_dead : s.afterDraw.dead = s.dead := rfl
@[simp] theorem afterDraw_obs : s.afterDraw.obs = s.obs := rfl
@[simp] theorem afterDraw_rxq : s.afterDraw.rxq = s.rxq := rfl
@[simp] theorem afterDraw_txq : s.afterDraw.txq = s.txq := rfl
@[simp] theorem afterDraw_wlock : s.afterDraw.wlock = s.wlock := rfl
@[simp] theorem afterDraw_rderr : s.afterDraw.rderr = s.rderr := rfl
@[simp] theorem afterDraw_linkLost : s.afterDraw.linkLost = s.linkLost := rfl
@[simp] theorem afterDraw_obsRun : s.afterDraw.obsRun = s.obsRun := rfl
@[simp] theorem afterDraw_stopping : s.afterDraw.stopping = s.stopping := rfl
@[simp] theorem afterDraw_out : s.afterDraw.out = s.out := rfl
@[simp] theorem afterDraw_turn : s.afterDraw.turn = s.turn := rfl
@[simp] theorem afterDraw_env : s.afterDraw.env = s.env.used := rfl

/-! nextTurn -/

@[simp] theorem nextTurn_dec : s.nextTurn.dec = s.dec := by unfold nextTurn; split <;> rfl
@[simp] theorem nextTurn_run : s.nextTurn.run = s.run := by unfold nextTurn; split <;> rfl
@[simp] theorem nextTurn_dead : s.nextTurn.dead = s.dead := by unfold nextTurn; split <;> rfl
@[simp] theorem nextTurn_obs : s.nextTurn.obs = s.obs := by unfold nextTurn; split <;> rfl
@[simp] theorem nextTurn_rxq : s.nextTurn.rxq = s.rxq := by unfold nextTurn; split <;> rfl
@[simp] theorem nextTurn_txq : s.nextTurn.txq = s.txq := by unfold nextTurn; split <;> rfl
@[simp] theorem nextTurn_wlock : s.nextTurn.wlock = s.wlock := by unfold nextTurn; split <;> rfl
@[simp] theorem nextTurn_rderr : s.nextTurn.rderr = s.rderr := by unfold nextTurn; split <;> rfl
@[simp] theorem nextTurn_linkLost : s.nextTurn.linkLost = s.linkLost := by unfold nextTurn; split <;> rfl
@[simp] theorem nextTurn_obsRun : s.nextTurn.obsRun = s.obsRun := by unfold nextTurn; split <;> rfl
@[simp] theorem nextTurn_stopping : s.nextTurn.stopping = s.stopping := by unfold nextTurn; split <;> rfl
@[simp] theorem nextTurn_out : s.nextTurn.out = s.out := by unfold nextTurn; split <;> rfl

/-! deliver -/

@[simp] theorem deliver_dec (m : Message) : (s.deliver m).dec = s.dec := by unfold deliver; split <;> rfl
@[simp] theorem deliver_run (m : Message) : (s.deliver m).run = s.run := by unfold deliver; split <;> rfl
@[simp] theorem deliver_dead (m : Message) : (s.deliver m).dead = s.dead := by unfold deliver; split <;> rfl
@[simp] theorem deliver_obs (m : Message) : (s.deliver m).obs = s.obs := by unfold deliver; split <;> rfl
@[simp] theorem deliver_rxq (m : Message) : (s.deliver m).rxq = s.rxq := by unfold deliver; split <;> rfl
@[simp] theorem deliver_txq (m : Message) : (s.deliver m).txq = s.txq := by unfold deliver; split <;> rfl
@[simp] theorem deliver_wlock (m : Message) : (s.deliver m).wlock = s.wlock := by unfold deliver; split <;> rfl
@[simp] theorem deliver_rderr (m : Message) : (s.deliver m).rderr = s.rderr := by unfold deliver; split <;> rfl
@[simp] theorem deliver_stopping (m : Message) : (s.deliver m).stopping = s.stopping := by unfold deliver; split <;> rfl
@[simp] theorem deliver_linkLost (m : Message) : (s.deliver m).linkLost = s.linkLost := by unfold deliver; split <;> rfl
@[simp] theorem deliver_turn (m : Message) : (s.deliver m).turn = s.turn := by unfold deliver; split <;> rfl
@[simp] theorem deliver_env (m : Message) : (s.deliver m).env = s.env := by unfold deliver; split <;> rfl

/-! what a draw and a turn leave of the inputs -/

@[simp] theorem used_sched (e : Inputs) : e.used.sched = e.sched := by unfold Inputs.used; split <;> rfl
@[simp] theorem used_pending (e : Inputs) : e.used.pending = e.pending := by unfold Inputs.used; split <;> rfl
@[simp] theorem nextTurn_pending : s.nextTurn.env.pending = s.env.pending := by unfold nextTurn; split <;> rfl
@[simp] theorem nextTurn_choices : s.nextTurn.env.choices = s.env.choices := by unfold nextTurn; split <;> rfl

/-! what a delivery leaves of the outputs -/

@[simp] theorem deliver_wire (m : Message) : (s.deliver m).out.wire = s.out.wire := by unfold deliver; split <;> rfl
@[simp] theorem deliver_raised (m : Message) : (s.deliver m).out.raised = s.out.raised := by unfold deliver; split <;> rfl
@[simp] theorem deliver_opened (m : Message) : (s.deliver m).out.opened = s.out.opened := by unfold deliver; split <;> rfl
@[simp] theorem deliver_frame (m : Message) : (s.deliver m).out.frame = s.out.frame := by unfold deliver; split <;> rfl

end Sys2Proof.Machine.State
end

