-- ==== Sys2Proof/Laws/Ops.lean ====
section
/-! SUPPORT. What each shared operation can do, said once: room, draws, delivery, requests, turns. -/

namespace Sys2Proof.Machine

/-- wf(m) as an equation of numbers (spec/00_scope.md R9). -/
theorem wf_iff (m : Message) : m.wf = true ↔ m.payload.length = m.length.toNat := by
  simp only [Message.wf, beq_iff_eq]; exact eq_comm

/-! ## Room (spec/00_scope.md R4) -/

/-- Fewer bytes fit where more do. -/
theorem fits_mono {depth : Option Nat} {m n : Nat} (h : m ≤ n) (hn : fits depth n = true) : fits depth m = true := by
  cases depth with
  | none => rfl
  | some d => simp only [fits, decide_eq_true_eq] at *; omega

/-- RX_DEPTH is at least 1. -/
theorem fits_rx_one {n : Nat} (h : n ≤ 1) : fits Config.rxDepth n = true := by
  unfold Config.rxDepth
  cases Config.rxDepthOpen with
  | none => rfl
  | some d => simp only [fits, Option.map_some, decide_eq_true_eq]; omega

/-- TX_DEPTH is at least the longest frame. -/
theorem fits_tx_frame {n : Nat} (h : n ≤ 261) : fits Config.txDepth n = true := by
  unfold Config.txDepth
  cases Config.txDepthOpen with
  | none => rfl
  | some d =>
    simp only [fits, Option.map_some, decide_eq_true_eq, Config.frameMax, Config.frameMin, Config.headerBytes,
      Config.trailerBytes, Config.lenMax]
    omega

/-! ## Draws (spec/00_scope.md R8) -/

/-- A draw in 0 .. bound picks a number in that range. -/
theorem drawn_le (s : State) (bound : Nat) : s.drawn bound ≤ bound := by
  unfold State.drawn Inputs.pick
  split <;> exact Nat.le_of_lt_succ (Nat.mod_lt _ (Nat.succ_pos _))

/-- A choice in the range is what the draw picks. -/
theorem drawn_of_choice {s : State} {c bound : Nat} {cs : List Nat} (h : s.env.choices = c :: cs) (hc : c ≤ bound) :
    s.drawn bound = c := by
  simp only [State.drawn, Inputs.pick, h]
  exact Nat.mod_eq_of_lt (Nat.lt_succ_of_le hc)

/-- A draw with a choice uses that choice up and nothing else. -/
theorem afterDraw_of_choice {s : State} {c : Nat} {cs : List Nat} (h : s.env.choices = c :: cs) :
    s.afterDraw = { s with env := { s.env with choices := cs } } := by
  simp only [State.afterDraw, Inputs.used, h]

/-! ## Delivery (spec/60_exceptions.md R157, R159) -/

/-- With no observer registered the message is discarded. -/
@[simp] theorem deliver_none {s : State} {m : Message} (h : s.obs = none) : s.deliver m = s := by
  simp only [State.deliver, h]

/-- The registered observer is called once, with the message. -/
theorem deliver_some {s : State} {m : Message} {f : CallbackId} (h : s.obs = some f) :
    s.deliver m = { s with
      obsRun := some { observer := f, msg := m }
      out := { s.out with calls := s.out.calls ++ [{ observer := f, msg := m }] } } := by
  simp only [State.deliver, h]

/-- What a delivery adds to the record of calls. -/
theorem deliver_calls (s : State) (m : Message) :
    (s.deliver m).out.calls = s.out.calls ++ (match s.obs with | none => [] | some f => [Call.mk f m]) := by
  unfold State.deliver; split <;> simp_all

/-! ## The write of a frame (spec/42_transport.md R124, spec/60_exceptions.md R153) -/

/-- A write that succeeds puts the whole frame into txq and leaves the lock free. -/
theorem writeFrame_ok {s : State} {bs : List Byte} (h : s.drawn 1 = 1) :
    s.writeFrame bs = { s with txq := s.txq ++ bs, wlock := none, env := s.env.used } := by
  simp only [State.writeFrame, h, if_true]; rfl

/-- A write that fails puts some of the frame into txq, raises the error and leaves the lock free. -/
theorem writeFrame_failed {s : State} {bs : List Byte} (h : s.drawn 1 ≠ 1) :
    s.writeFrame bs = { s with
      txq := s.txq ++ bs.take (s.env.used.pick bs.length)
      wlock := none
      out := { s.out with raised := s.out.raised ++ [{ who := s.turn, err := .writeError }] }
      env := s.env.used.used } := by
  simp only [State.writeFrame, h, if_false]; rfl

/-! ## Requests and turns -/

/-- A request taken is one of the agent's own, and the others stay in their order. -/
theorem takeRequest_some {a : Agent} {act : Action} {l rest : List Request} (h : takeRequest a l = some (act, rest)) :
    ∃ before after, l = before ++ { agent := a, act := act } :: after ∧ rest = before ++ after ∧
      ∀ r ∈ before, r.agent ≠ a := by
  induction l generalizing rest with
  | nil => simp [takeRequest] at h
  | cons r l ih =>
    rw [takeRequest] at h
    split at h
    · rename_i ha
      obtain ⟨rfl, rfl⟩ : r.act = act ∧ l = rest := by simpa using h
      exact ⟨[], l, by simp [← ha], rfl, by simp⟩
    · rename_i ha
      obtain ⟨p, hp, hq⟩ := Option.map_eq_some_iff.mp h
      obtain ⟨rfl, rfl⟩ : p.1 = act ∧ r :: p.2 = rest := by simpa using hq
      obtain ⟨before, after, hl, hr, hb⟩ := ih hp
      exact ⟨r :: before, after, by simp [hl], by simp [hr], by simpa using ⟨ha, hb⟩⟩

/-- No request of the agent is left out. -/
theorem takeRequest_none {a : Agent} {l : List Request} : takeRequest a l = none ↔ ∀ r ∈ l, r.agent ≠ a := by
  induction l with
  | nil => simp [takeRequest]
  | cons r l ih =>
    rw [takeRequest]
    split <;> simp_all

/-- Everything a turn can do, if it has a next state: the agent cannot move, it performs a request, the pump fetches a
byte, the observer returns, or nothing happens. -/
theorem takeTurn_cases {s t : State} (h : takeTurn s = .next t) :
    t = s ∨
    (∃ i rest, s.canAct = true ∧ takeRequest s.turn s.env.pending = some (.op i, rest) ∧ issuedBy i s.turn = true ∧
      exec i { s with env := { s.env with pending := rest } } = .next t) ∨
    (∃ rest, s.turn = .observer ∧ s.canAct = true ∧ takeRequest s.turn s.env.pending = some (.obsReturn, rest) ∧
      t = { s with obsRun := none, env := { s.env with pending := rest } }) ∨
    (s.turn = .observer ∧ s.canAct = true ∧ t = s.obsReturn) ∨
    (∃ b rest, s.turn = .pump ∧ s.run = true ∧ s.obsRun = none ∧ s.stopping = none ∧ s.rxq = b :: rest ∧
      exec (decodeRxb s.dec.slot b) { s with rxq := rest } = .next t) := by
  unfold takeTurn at h
  split at h
  · rename_i hc
    split at h
    · rename_i act rest hr
      cases act with
      | op i =>
        simp only [perform] at h
        split at h
        · exact .inr (.inl ⟨i, rest, hc, hr, ‹_›, h⟩)
        · cases h
      | obsReturn =>
        simp only [perform] at h
        split at h
        · cases h
          exact .inr (.inr (.inl ⟨rest, ‹_›, hc, hr, rfl⟩))
        · cases h
    · unfold ownTurn at h
      split at h
      · rename_i ht
        unfold fetch at h
        split at h
        · cases h; exact .inl rfl
        · rename_i b rest hq
          simp only [State.canAct, ht, Bool.and_eq_true, Option.isNone_iff_eq_none] at hc
          exact .inr (.inr (.inr (.inr ⟨b, rest, ht, hc.1.1, hc.1.2, hc.2, hq, h⟩)))
      · cases h; exact .inr (.inr (.inr (.inl ⟨‹_›, hc, rfl⟩)))
      all_goals cases h; exact .inl rfl
  · cases h; exact .inl rfl

end Sys2Proof.Machine
end

