-- ==== Sys2Proof/Laws/Decoder.lean ====
section
/-! SUPPORT. The decoder's small lemmas: the slot of a state, one equation of decStep per decoder state, and the arcs as
operations. -/

namespace Sys2Proof.Machine

/-- The comparison on 9 bits is the comparison of the numbers (spec/10_state.md R15). -/
theorem lastByte_iff (d : Dec) : d.lastByte = true ↔ d.idx.toNat + 1 = d.len.toNat := by
  have hi := d.idx.isLt
  have hl := d.len.isLt
  simp only [Dec.lastByte, beq_iff_eq, ← BitVec.toNat_inj, BitVec.toNat_add, BitVec.toNat_setWidth, BitVec.toNat_ofNat]
  omega

theorem slot_sync1 {d : Dec} (h : d.dstate = .sync1) : d.slot = .sync1 := by simp [Dec.slot, h]
theorem slot_sync2 {d : Dec} (h : d.dstate = .sync2) : d.slot = .sync2 := by simp [Dec.slot, h]
theorem slot_cmd {d : Dec} (h : d.dstate = .cmd) : d.slot = .cmd := by simp [Dec.slot, h]
theorem slot_len {d : Dec} (h : d.dstate = .len) : d.slot = .len := by simp [Dec.slot, h]
theorem slot_crc1 {d : Dec} (h : d.dstate = .crc1) : d.slot = .crc1 := by simp [Dec.slot, h]
theorem slot_crc2 {d : Dec} (h : d.dstate = .crc2) : d.slot = .crc2 := by simp [Dec.slot, h]

theorem slot_dataMore {d : Dec} (h : d.dstate = .data) (hi : d.idx.toNat + 1 ≠ d.len.toNat) : d.slot = .dataMore := by
  simp [Dec.slot, h, mt (lastByte_iff d).mp hi]

theorem slot_dataLast {d : Dec} (h : d.dstate = .data) (hi : d.idx.toNat + 1 = d.len.toNat) : d.slot = .dataLast := by
  simp [Dec.slot, h, (lastByte_iff d).mpr hi]

/-! ## One equation of the step function per arc (spec/40_decoder.md R71 to R81) -/

theorem decStep_s1Hit {d : Dec} (h : d.dstate = .sync1) : decStep d Config.sync = (d.s1Hit, none) := by
  simp [decStep, slot_sync1 h]

theorem decStep_s1Miss {d : Dec} {b : Byte} (h : d.dstate = .sync1) (hb : b ≠ Config.sync) :
    decStep d b = (d.s1Miss, none) := by
  simp [decStep, slot_sync1 h, hb]

theorem decStep_s2Hit {d : Dec} (h : d.dstate = .sync2) : decStep d Config.sync = (d.s2Hit, none) := by
  simp [decStep, slot_sync2 h]

theorem decStep_s2Miss {d : Dec} {b : Byte} (h : d.dstate = .sync2) (hb : b ≠ Config.sync) :
    decStep d b = (d.s2Miss, none) := by
  simp [decStep, slot_sync2 h, hb]

theorem decStep_cmd {d : Dec} (b : Byte) (h : d.dstate = .cmd) : decStep d b = (d.takeCmd b, none) := by
  simp [decStep, slot_cmd h]

theorem decStep_lenZ {d : Dec} (h : d.dstate = .len) : decStep d 0x00#8 = (d.lenZ, none) := by
  simp [decStep, slot_len h]

theorem decStep_lenNz {d : Dec} {b : Byte} (h : d.dstate = .len) (hb : b ≠ 0x00#8) :
    decStep d b = (d.lenNz b, none) := by
  simp [decStep, slot_len h, hb]

theorem decStep_dataMore {d : Dec} (b : Byte) (h : d.dstate = .data) (hi : d.idx.toNat + 1 ≠ d.len.toNat) :
    decStep d b = (d.dataMore b, none) := by
  simp [decStep, slot_dataMore h hi]

theorem decStep_dataLast {d : Dec} (b : Byte) (h : d.dstate = .data) (hi : d.idx.toNat + 1 = d.len.toNat) :
    decStep d b = (d.dataLast b, none) := by
  simp [decStep, slot_dataLast h hi]

theorem decStep_crc1 {d : Dec} (b : Byte) (h : d.dstate = .crc1) : decStep d b = (d.crc1, none) := by
  simp [decStep, slot_crc1 h]

theorem decStep_crc2 {d : Dec} (b : Byte) (h : d.dstate = .crc2) : decStep d b = (d.crc2, some d.completed) := by
  simp [decStep, slot_crc2 h]

/-- Everything a decoder step can do: one of the eleven arcs (spec/30_encoding.md R58). -/
theorem decStep_cases (d : Dec) (b : Byte) :
    (d.dstate = .sync1 ∧ b = Config.sync ∧ decStep d b = (d.s1Hit, none)) ∨
    (d.dstate = .sync1 ∧ b ≠ Config.sync ∧ decStep d b = (d.s1Miss, none)) ∨
    (d.dstate = .sync2 ∧ b = Config.sync ∧ decStep d b = (d.s2Hit, none)) ∨
    (d.dstate = .sync2 ∧ b ≠ Config.sync ∧ decStep d b = (d.s2Miss, none)) ∨
    (d.dstate = .cmd ∧ decStep d b = (d.takeCmd b, none)) ∨
    (d.dstate = .len ∧ b = 0x00#8 ∧ decStep d b = (d.lenZ, none)) ∨
    (d.dstate = .len ∧ b ≠ 0x00#8 ∧ decStep d b = (d.lenNz b, none)) ∨
    (d.dstate = .data ∧ d.idx.toNat + 1 ≠ d.len.toNat ∧ decStep d b = (d.dataMore b, none)) ∨
    (d.dstate = .data ∧ d.idx.toNat + 1 = d.len.toNat ∧ decStep d b = (d.dataLast b, none)) ∨
    (d.dstate = .crc1 ∧ decStep d b = (d.crc1, none)) ∨
    (d.dstate = .crc2 ∧ decStep d b = (d.crc2, some d.completed)) := by
  cases h : d.dstate
  case sync1 =>
    by_cases hb : b = Config.sync
    · subst hb; simp [decStep_s1Hit h]
    · simp [hb, decStep_s1Miss h hb]
  case sync2 =>
    by_cases hb : b = Config.sync
    · subst hb; simp [decStep_s2Hit h]
    · simp [hb, decStep_s2Miss h hb]
  case cmd => simp [decStep_cmd b h]
  case len =>
    by_cases hb : b = 0x00#8
    · subst hb; simp [decStep_lenZ h]
    · simp [hb, decStep_lenNz h hb]
  case data =>
    by_cases hi : d.idx.toNat + 1 = d.len.toNat
    · simp [hi, decStep_dataLast b h hi]
    · simp [hi, decStep_dataMore b h hi]
  case crc1 => simp [decStep_crc1 b h]
  case crc2 => simp [decStep_crc2 b h]

/-! ## The arcs as operations -/

/-- Everything an arc can do, if it has a next state. -/
theorem arc_next {sel : Bool} {d : Dec} {out : Option Message} {s t : State} (h : arc sel d out s = .next t) :
    sel = true ∧
      ((out = none ∧ t = { s with dec := d }) ∨ ∃ m, out = some m ∧ t = State.deliver { s with dec := d } m) := by
  unfold arc at h
  split at h
  · split at h <;> cases h <;> simp_all
  · cases h

/-- The byte the pump feeds runs exactly the arc that the dispatch table selects for it (spec/30_encoding.md R58,
spec/42_transport.md R118). -/
theorem exec_decodeRxb (s : State) (b : Byte) : exec (decodeRxb s.dec.slot b) s = .next (s.feed b) := by
  unfold State.feed decStep
  cases hs : s.dec.slot <;> simp only [decodeRxb]
  case sync1 => by_cases hb : b = Config.sync <;> simp [hb, exec, execDS1Hit, execDS1Miss, arc, hs]
  case sync2 => by_cases hb : b = Config.sync <;> simp [hb, exec, execDS2Hit, execDS2Miss, arc, hs]
  case len => by_cases hb : b = 0x00#8 <;> simp [hb, exec, execDLenZ, execDLenNz, arc, hs]
  case cmd => simp [exec, execDCmd, arc, hs]
  case dataMore => simp [exec, execDDataMore, arc, hs]
  case dataLast => simp [exec, execDDataLast, arc, hs]
  case crc1 => simp [exec, execDCrc1, arc, hs]
  case crc2 => simp [exec, execDCrc2, arc, hs]

end Sys2Proof.Machine
end

