-- ==== Sys2Proof/Laws/Meanings.lean ====
section
/-! SUPPORT. For each interface operation, everything it can do if it has a next state; and the consume steps of a
stop as a run of the decoder. -/

namespace Sys2Proof.Machine

@[simp] theorem callsOf_nil (o : Option CallbackId) : callsOf o [] = [] := by cases o <;> rfl

theorem callsOf_append (o : Option CallbackId) (xs ys : List Message) :
    callsOf o (xs ++ ys) = callsOf o xs ++ callsOf o ys := by
  cases o <;> simp [callsOf]

/-- A fed byte changes the decoder's registers and, with a completed message, delivers it. -/
theorem feed_eq (s : State) (b : Byte) :
    s.feed b =
      match (decStep s.dec b).2 with
      | none => { s with dec := (decStep s.dec b).1 }
      | some m => State.deliver { s with dec := (decStep s.dec b).1 } m := by
  unfold State.feed
  rcases decStep s.dec b with ⟨d, o⟩
  cases o <;> rfl

/-- A fed byte whose observer invocation has returned. -/
theorem feed_return (s : State) (b : Byte) :
    (s.feed b).obsReturn = { s with
      dec := (decStep s.dec b).1
      obsRun := none
      out := { s.out with calls := s.out.calls ++ callsOf s.obs (decStep s.dec b).2.toList } } := by
  rw [feed_eq]
  cases h : (decStep s.dec b).2 with
  | none => cases s.obs <;> simp [State.obsReturn, callsOf]
  | some m => cases s.obs <;> simp [State.obsReturn, callsOf, State.deliver]

/-- Feeding a byte that calls nobody changes the decoder's registers only. -/
theorem feed_quiet {s : State} {b : Byte} (h : callsOf s.obs (decStep s.dec b).2.toList = []) :
    s.feed b = { s with dec := (decStep s.dec b).1 } := by
  rw [feed_eq]
  cases hm : (decStep s.dec b).2 with
  | none => rfl
  | some m =>
    cases ho : s.obs with
    | none => exact deliver_none rfl
    | some f => simp [callsOf, ho, hm] at h

/-- A residual consume step that calls nobody is one step of the decoder, and the residual steps go on. -/
theorem residual_succ {s : State} {b : Byte} {rest : List Byte} (n : Nat) (ho : s.obsRun = none) (hq : s.rxq = b :: rest)
    (h : callsOf s.obs (decStep s.dec b).2.toList = []) :
    s.residual (n + 1) = State.residual { s with rxq := rest, dec := (decStep s.dec b).1 } n := by
  have hc : s.consume = { s with rxq := rest, dec := (decStep s.dec b).1 } := by
    rw [State.consume, hq]; exact feed_quiet h
  rw [State.residual, hc]
  exact if_neg (by simp [ho])

/-- Residual consume steps that call nobody are one run of the decoder (spec/42_transport.md R129, spec/40_decoder.md
R82). -/
theorem residual_quiet (n : Nat) : ∀ s : State, s.obsRun = none →
    callsOf s.obs (decRun s.dec (s.rxq.take n)).2 = [] →
    s.residual n = ({ s with dec := (decRun s.dec (s.rxq.take n)).1, rxq := s.rxq.drop n }, 0) := by
  induction n with
  | zero => intro s _ _; simp [State.residual, decRun]
  | succ n ih =>
    intro s ho hc
    cases hq : s.rxq with
    | nil =>
      have := ih s ho (by simp [hq, decRun])
      rw [State.residual, State.consume, hq]
      simpa [ho, hq] using this
    | cons b rest =>
      simp only [hq, List.take_succ_cons, decRun, callsOf_append, List.append_eq_nil_iff] at hc
      rw [residual_succ n ho hq hc.1]
      exact ih { s with rxq := rest, dec := (decStep s.dec b).1 } ho hc.2

/-- Residual consume steps that call the observer end at the first one that does. -/
theorem residual_called (n : Nat) : ∀ s : State, s.obsRun = none →
    callsOf s.obs (decRun s.dec (s.rxq.take n)).2 ≠ [] →
    ∃ i m f, i < n ∧ s.obs = some f ∧
      (decRun s.dec (s.rxq.take i)).2 = [] ∧ (decRun s.dec (s.rxq.take (i + 1))).2 = [m] ∧
      s.residual n = ({ s with
        dec := (decRun s.dec (s.rxq.take (i + 1))).1
        rxq := s.rxq.drop (i + 1)
        obsRun := some { observer := f, msg := m }
        out := { s.out with calls := s.out.calls ++ [{ observer := f, msg := m }] } }, n - (i + 1)) := by
  induction n with
  | zero => intro s _ hc; simp [decRun] at hc
  | succ n ih =>
    intro s ho hc
    cases hq : s.rxq with
    | nil => simp [hq, decRun] at hc
    | cons b rest =>
      obtain ⟨f, hf⟩ : ∃ f, s.obs = some f := by
        cases h : s.obs with
        | none => simp [callsOf, h] at hc
        | some f => exact ⟨f, rfl⟩
      cases hm : (decStep s.dec b).2 with
      | some m =>
        refine ⟨0, m, f, Nat.succ_pos n, hf, rfl, by simp [decRun, hm], ?_⟩
        simp [State.residual, State.consume, hq, feed_eq, hm, State.deliver, hf, decRun]
      | none =>
        rw [residual_succ n ho hq (by simp [hm])]
        obtain ⟨i, m, f, hi, hf', h1, h2, h3⟩ :=
          ih { s with rxq := rest, dec := (decStep s.dec b).1 } ho (by simpa [hq, decRun, hm] using hc)
        refine ⟨i + 1, m, f, Nat.succ_lt_succ hi, hf', by simpa [decRun, hm] using h1, by simpa [decRun, hm] using h2, ?_⟩
        rw [h3]
        simp [decRun]

/-! ## Everything an operation can do -/

theorem tRxDeliver_next {bs : List Byte} {s t : State} (h : exec (.tRxDeliver bs) s = .next t) :
    t = s.wait (.tRxDeliver bs) ∨
      (s.run = true ∧ fits Config.rxDepth (s.rxq.length + bs.length) = true ∧
        t = { s with rxq := s.rxq ++ bs, rderr := 0 }) := by
  simp only [exec, execTRxDeliver] at h
  split at h <;> rename_i hc <;> cases h
  · rw [Bool.and_eq_true] at hc
    exact .inr ⟨hc.1, hc.2, rfl⟩
  · exact .inl rfl

theorem tRxError_next {s t : State} (h : exec .tRxError s = .next t) :
    t = s.wait .tRxError ∨ (s.run = true ∧ t = s.failRead) := by
  simp only [exec, execTRxError] at h
  split at h <;> cases h <;> simp_all

theorem pRxConsume_next {s t : State} (h : exec .pRxConsume s = .next t) :
    t = s.wait .pRxConsume ∨
      ∃ b rest, s.run = true ∧ s.obsRun = none ∧ s.rxq = b :: rest ∧ t = State.feed { s with rxq := rest } b := by
  simp only [exec, execPRxConsume] at h
  split at h <;> rename_i hc <;> cases h
  · simp only [State.canConsume, Bool.and_eq_true, Option.isNone_iff_eq_none] at hc
    cases hq : s.rxq with
    | nil => simp [hq] at hc
    | cons b rest => exact .inr ⟨b, rest, hc.1.1, hc.2, rfl, by simp [State.consume, hq]⟩
  · exact .inl rfl

theorem tTxDrain_next {k : Nat} {s t : State} (h : exec (.tTxDrain k) s = .next t) :
    t = s.wait (.tTxDrain k) ∨ (k ≤ s.txq.length ∧ t = s.drain k) := by
  simp only [exec, execTTxDrain] at h
  split at h
  · cases h
  · split at h <;> cases h <;> simp_all

theorem eEncode_next {m : Message} {s t : State} (h : exec (.eEncode m) s = .next t) :
    m.wf = true ∧ t = { s with out := { s.out with frame := encodeMsg m } } := by
  simp only [exec, execEEncode] at h
  split at h <;> cases h
  exact ⟨‹_›, rfl⟩

theorem hStart_next {transportId : String} {baudRate : Int} {s t : State}
    (h : exec (.hStart transportId baudRate) s = .next t) :
    s.turn ≠ .observer ∧ s.dead = false ∧ s.run = false ∧
      (t = (s.afterDraw.askOpen transportId baudRate).started ∨
        t = (s.afterDraw.askOpen transportId baudRate).failedStart) := by
  simp only [exec, execHStart] at h
  split at h
  · cases h
  split at h
  · cases h
  split at h
  · cases h
  split at h <;> cases h <;> simp_all

theorem hSetObs_next {cb : CallbackId} {s t : State} (h : exec (.hSetObs cb) s = .next t) :
    t = { s with obs := some cb } := by
  cases h; rfl

theorem hSend_next {m : Message} {s t : State} (h : exec (.hSend m) s = .next t) :
    s.dead = false ∧ s.run = true ∧ m.wf = true ∧
      (t = s.wait (.hSend m) ∨
        (s.wlock = none ∧ fits Config.txDepth (s.txq.length + (6 + m.length.toNat)) = true ∧
          t = s.writeFrame (encodeMsg m))) := by
  simp only [exec, execHSend] at h
  split at h
  · cases h
  split at h
  · cases h
  split at h
  · cases h
  split at h <;> rename_i hc <;> cases h
  · rw [Bool.and_eq_true, Option.isNone_iff_eq_none] at hc
    exact ⟨by simp_all, by simp_all, by simp_all, .inr ⟨hc.1, hc.2, rfl⟩⟩
  · exact ⟨by simp_all, by simp_all, by simp_all, .inl rfl⟩

theorem hStop_next {s t : State} (h : exec .hStop s = .next t) :
    s.turn ≠ .observer ∧ s.dead = false ∧ s.run = true ∧
      (t = s.wait .hStop ∨
        (s.obsRun = none ∧
          ((s.stopping = none ∧ t = s.afterDraw.stopWith (s.drawn s.rxq.length)) ∨
            ∃ n, s.stopping = some { who := s.turn, left := n } ∧ t = s.stopWith n))) := by
  simp only [exec, execHStop] at h
  split at h
  · cases h
  split at h
  · cases h
  split at h
  · cases h
  refine ⟨by assumption, by simp_all, by simp_all, ?_⟩
  split at h <;> rename_i ho
  · cases h; exact .inl rfl
  have ho' : s.obsRun = none := by simpa using ho
  split at h <;> rename_i hs
  · cases h; exact .inr ⟨ho', .inl ⟨hs, rfl⟩⟩
  · split at h <;> rename_i hw <;> cases h
    · rw [← hw]; exact .inr ⟨ho', .inr ⟨_, hs, rfl⟩⟩
    · exact .inl rfl

/-- A stop whose residual steps call nobody is the exit of the pump and the close of the transport. -/
theorem stopWith_quiet {s : State} {n : Nat} (h : s.obsRun = none)
    (hc : callsOf s.obs (decRun s.dec (s.rxq.take n)).2 = []) :
    s.stopWith n = (State.pumpExit { s with dec := (decRun s.dec (s.rxq.take n)).1, rxq := s.rxq.drop n }).close := by
  simp [State.stopWith, residual_quiet n s h hc, h]

/-- A stop whose residual steps call nobody ends as R129 says: some number of bytes is still sent, and every number is a
choice. -/
theorem stopWith_stopped {s : State} {n : Nat} (h : s.obsRun = none)
    (hc : callsOf s.obs (decRun s.dec (s.rxq.take n)).2 = []) :
    (∃ k, k ≤ s.txq.length ∧ Stopped s (s.stopWith n) n k) ∧
    ∀ k cs, k ≤ s.txq.length → s.env.choices = k :: cs →
      Stopped s (s.stopWith n) n k ∧ (s.stopWith n).env.choices = cs := by
  rw [stopWith_quiet h hc]
  generalize hv : State.pumpExit { s with dec := (decRun s.dec (s.rxq.take n)).1, rxq := s.rxq.drop n } = v
  have key : Stopped s v.close n (v.drawn s.txq.length) := by
    subst hv
    simp only [Stopped, State.close, State.pumpExit]
    simp [h, hc]
  refine ⟨⟨_, drawn_le _ _, key⟩, fun k cs hk he => ?_⟩
  have hch : v.env.choices = k :: cs := by rw [← hv, ← he]; rfl
  rw [drawn_of_choice hch hk] at key
  exact ⟨key, by simp [State.close, afterDraw_of_choice hch]⟩

/-- A stop whose residual steps call the observer is held up. -/
theorem stopWith_heldUp {s : State} {n : Nat} (h : s.obsRun = none)
    (hc : callsOf s.obs (decRun s.dec (s.rxq.take n)).2 ≠ []) : HeldUp s (s.stopWith n) n := by
  obtain ⟨i, m, f, hi, hf, h1, h2, h3⟩ := residual_called n s h hc
  refine ⟨i, m, f, hi, hf, h1, h2, ?_⟩
  simp [State.stopWith, h3, State.suspend, State.wait]

/-- Everything a stop can do: it waits, or it performs n residual consume steps and has then ended the connection or
is held up by the observer. -/
theorem hStop_effect {s t : State} (h : exec .hStop s = .next t) :
    t = s.wait .hStop ∨
      ∃ n e, ((∀ st, s.stopping = some st → st.left ≤ s.rxq.length) → n ≤ s.rxq.length) ∧
        s.run = true ∧ s.obsRun = none ∧
        ((∃ k, k ≤ s.txq.length ∧ Stopped { s with env := e } t n k) ∨ HeldUp { s with env := e } t n) := by
  obtain ⟨-, -, hr, rfl | ⟨ho, ⟨-, rfl⟩ | ⟨n, hs, rfl⟩⟩⟩ := hStop_next h
  · exact .inl rfl
  · refine .inr ⟨_, s.afterDraw.env, fun _ => drawn_le s _, hr, ho, ?_⟩
    by_cases hc : callsOf s.obs (decRun s.dec (s.rxq.take (s.drawn s.rxq.length))).2 = []
    · exact .inl (stopWith_stopped (s := s.afterDraw) ho hc).1
    · exact .inr (stopWith_heldUp (s := s.afterDraw) ho hc)
  · refine .inr ⟨n, s.env, fun hl => hl _ hs, hr, ho, ?_⟩
    by_cases hc : callsOf s.obs (decRun s.dec (s.rxq.take n)).2 = []
    · exact .inl (stopWith_stopped ho hc).1
    · exact .inr (stopWith_heldUp ho hc)

/-- A run whose first step has a next state goes on from it. -/
theorem run_succ {k : Nat} {s t : State} (h : step s = .next t) :
    Sys2Proof.core.run (k + 1) s = Sys2Proof.core.run k t :=
  have general (M : Host.Core) {s t : M.State} (h : M.step s = .next t) : M.run (k + 1) s = M.run k t := by
    rw [Host.Core.run, h]
  general Sys2Proof.core h

end Sys2Proof.Machine
end

