-- ==== Sys2Proof/Tests/Slice0.lean ====
section
/-! SUPPORT. The model's own tests. Expected values are those of spec/95_test_vectors.md (its single-arc table, E1 to E8,
T1 to T11) or are written out from the tables of spec/30_encoding.md; then a witness for every statement that has
hypotheses. -/

namespace Sys2Proof.Tests

open Sys2Proof Sys2Proof.Machine

/-! ## Small states -/

/-- A running block with the decoder's registers given. -/
def runningWith (d : Dec) : State := { State.reset with run := true, dec := d, turn := .caller 0 }

/-- A running block right after a start. -/
def running : State := runningWith Dec.init

/-- The same with an observer. -/
def observed (d : Dec) : State := { runningWith d with obs := some 5 }

/-- A running block that will draw these numbers. -/
def choosing (cs : List Nat) : State := { running with env := { running.env with choices := cs } }

/-- The same on a block that is not running. -/
def stoppedChoosing (cs : List Nat) : State := { choosing cs with run := false }

/-- The result is a next state with the property. -/
def gives (r : Result) (p : State → Bool) : Bool :=
  match r with
  | .next t => p t
  | .fault _ => false
  | .refused _ => false

/-- The result is this refusal. -/
def refusedAs (r : Result) (x : Refusal) : Bool :=
  match r with
  | .next _ => false
  | .fault _ => false
  | .refused y => decide (y = x)

/-- The result is a next state with these decoder registers. -/
def leaves (r : Result) (d : Dec) : Bool := gives r fun t => decide (t.dec = d)

/-- The messages of spec/95_test_vectors.md. -/
def msgA : Message := ⟨0x06#8, 0x00#8, []⟩
def msgSyncs : Message := ⟨0x7E#8, 0x02#8, [0x7E#8, 0x7E#8]⟩
def msgLongest : Message := ⟨0xAA#8, 0xFF#8, List.replicate 255 0x11#8⟩
def msgShort : Message := ⟨0x01#8, 0x02#8, [0xAA#8]⟩

/-- A caller's stop that decodes both waiting bytes: the first completes a message, and there is an observer. -/
def stopCaller : State :=
  { observed ⟨.crc2, 0x06#8, 0x00#8, 0x00#8, []⟩ with
    rxq := [0x00#8, 0x7E#8], env := { running.env with choices := [2, 0] } }

/-- That stop while it is held up by the observer, on the observer's turn; one byte is left, and one draw is to come. -/
def heldUp : State :=
  { observed Dec.init with
    rxq := [0x7E#8], obsRun := some ⟨5, msgA⟩, stopping := some ⟨.caller 0, 1⟩
    env := { running.env with sched := [.observer], pending := [⟨.caller 0, .op .hStop⟩], choices := [1] } }

/-! ## Well-formedness: for each check a term it refuses -/

theorem test_wf_refuses_s1Miss_sync : (Instr.dS1Miss 0x7E#8).wf = false := by decide
theorem test_wf_refuses_s2Miss_sync : (Instr.dS2Miss 0x7E#8).wf = false := by decide
theorem test_wf_refuses_lenNz_zero : (Instr.dLenNz 0x00#8).wf = false := by decide
theorem test_wf_refuses_encode_short : (Instr.eEncode msgShort).wf = false := by decide
theorem test_wf_refuses_send_long : (Instr.hSend ⟨0x01#8, 0x00#8, [0xAA#8]⟩).wf = false := by decide
theorem test_wf_refuses_drain_zero : (Instr.tTxDrain 0).wf = false := by decide
theorem test_wf_accepts : (Instr.dS1Miss 0x7D#8).wf = true ∧ (Instr.eEncode msgSyncs).wf = true ∧ (Instr.tTxDrain 1).wf = true := by
  decide

/-! ## Decoding: words written out bit by bit from spec/30_encoding.md -/

/-- R58: the rows of format RXB. -/
theorem test_decode_rxb :
    decode (.rxb .sync1 0b01111110#8) = .ok .dS1Hit ∧
    decode (.rxb .sync1 0b01111101#8) = .ok (.dS1Miss 0x7D#8) ∧
    decode (.rxb .sync2 0b01111110#8) = .ok .dS2Hit ∧
    decode (.rxb .sync2 0b00000000#8) = .ok (.dS2Miss 0x00#8) ∧
    decode (.rxb .cmd 0b01111110#8) = .ok (.dCmd 0x7E#8) ∧
    decode (.rxb .len 0b00000000#8) = .ok .dLenZ ∧
    decode (.rxb .len 0b11111111#8) = .ok (.dLenNz 0xFF#8) ∧
    decode (.rxb .dataMore 0b01111110#8) = .ok (.dDataMore 0x7E#8) ∧
    decode (.rxb .dataLast 0b10011001#8) = .ok (.dDataLast 0x99#8) ∧
    decode (.rxb .crc1 0b01111110#8) = .ok (.dCrc1 0x7E#8) ∧
    decode (.rxb .crc2 0b11111111#8) = .ok (.dCrc2 0xFF#8) := by decide

/-- R53: the rows of format CMDID. -/
theorem test_decode_cmdid :
    decode (.cmdid 0b00000001#8) = .ok .cmdidFirmwareVersion ∧
    decode (.cmdid 0b00000010#8) = .ok .cmdidHardwareVersion ∧
    decode (.cmdid 0b00000011#8) = .ok .cmdidSetTime ∧
    decode (.cmdid 0b00000100#8) = .ok .cmdidGetTime ∧
    decode (.cmdid 0b00000101#8) = .ok .cmdidCpuTemp ∧
    decode (.cmdid 0b00000110#8) = .ok .cmdidTemperature ∧
    decode (.cmdid 0b00000111#8) = .ok .cmdidSetLogInterval ∧
    decode (.cmdid 0b00001000#8) = .ok .cmdidGetLogInterval ∧
    decode (.cmdid 0b00001001#8) = .ok .cmdidStreamLogs ∧
    decode (.cmdid 0b00001010#8) = .ok .cmdidStartNewLog := by decide

/-- R50: the frame, with the numbering of the opcode table too; vector E3. -/
theorem test_decode_frame :
    decode (.frame [0x7E#8, 0x7E#8, 0x7E#8, 0x02#8, 0x7E#8, 0x7E#8, 0x00#8, 0x00#8]) = .ok (.eEncode msgSyncs) ∧
    decodeTableWord 64 0x00007E7E027E7E7E = some (.eEncode msgSyncs) := by decide

/-- Every rejection has its name. -/
theorem test_decode_rejects :
    decode (.frame []) = .error .empty ∧
    decode (.frame [0x7E#8, 0x7D#8, 0x06#8, 0x00#8, 0x00#8, 0x00#8]) = .error .noPreamble ∧
    decode (.frame [0x7E#8, 0x7E#8, 0x06#8, 0x01#8, 0x00#8, 0x00#8]) = .error .truncated ∧
    decode (.frame [0x7E#8, 0x7E#8, 0x06#8, 0x00#8, 0xAB#8, 0xCD#8]) = .error .trailer ∧
    decode (.frame [0x7E#8, 0x7E#8, 0x06#8, 0x00#8, 0x00#8, 0x00#8, 0x00#8]) = .error .overlong ∧
    decode (.cmdid 0x0B#8) = .error .notListed := by decide

/-- R62: the rows of format OP have no bits. -/
theorem test_encode_op : encode .tRxError = none ∧ encode .hStop = none ∧ encode (.hSend msgA) = none := by decide

/-! ## One step of each operation -/

/-- The single-arc table of spec/95_test_vectors.md. -/
theorem test_dS1Hit : leaves (exec .dS1Hit running) ⟨.sync2, 0x00#8, 0x00#8, 0x00#8, []⟩ = true := by decide
theorem test_dS1Miss : leaves (exec (.dS1Miss 0x7F#8) running) Dec.init = true := by decide
theorem test_dS2Hit :
    leaves (exec .dS2Hit (runningWith ⟨.sync2, 0x00#8, 0x00#8, 0x00#8, []⟩)) ⟨.cmd, 0x00#8, 0x00#8, 0x00#8, []⟩ = true := by
  decide
theorem test_dS2Miss :
    leaves (exec (.dS2Miss 0x00#8) (runningWith ⟨.sync2, 0x00#8, 0x00#8, 0x00#8, []⟩)) Dec.init = true := by decide
theorem test_dCmd :
    leaves (exec (.dCmd 0x7E#8) (runningWith ⟨.cmd, 0x00#8, 0x00#8, 0x00#8, []⟩)) ⟨.len, 0x7E#8, 0x00#8, 0x00#8, []⟩ = true := by
  decide
theorem test_dLenZ :
    leaves (exec .dLenZ (runningWith ⟨.len, 0x06#8, 0x00#8, 0x05#8, []⟩)) ⟨.crc1, 0x06#8, 0x00#8, 0x00#8, []⟩ = true := by
  decide
theorem test_dLenNz :
    leaves (exec (.dLenNz 0xFF#8) (runningWith ⟨.len, 0x06#8, 0x00#8, 0x05#8, []⟩)) ⟨.data, 0x06#8, 0xFF#8, 0x00#8, []⟩ = true := by
  decide
theorem test_dDataMore :
    leaves (exec (.dDataMore 0x7E#8) (runningWith ⟨.data, 0x06#8, 0x03#8, 0x01#8, [0xAA#8]⟩))
      ⟨.data, 0x06#8, 0x03#8, 0x02#8, [0xAA#8, 0x7E#8]⟩ = true := by decide
theorem test_dDataLast :
    leaves (exec (.dDataLast 0x00#8) (runningWith ⟨.data, 0x06#8, 0x03#8, 0x02#8, [0xAA#8, 0x7E#8]⟩))
      ⟨.crc1, 0x06#8, 0x03#8, 0x03#8, [0xAA#8, 0x7E#8, 0x00#8]⟩ = true := by decide
/-- The longest payload's last byte (idx = FE, len = FF) and, in a state no run reaches, the comparison without wrap. -/
theorem test_dDataLast_boundary :
    Dec.slot ⟨.data, 0x06#8, 0xFF#8, 0xFE#8, []⟩ = .dataLast ∧ Dec.slot ⟨.data, 0x06#8, 0x00#8, 0xFF#8, []⟩ = .dataMore := by
  decide
theorem test_dCrc1 :
    leaves (exec (.dCrc1 0x7E#8) (runningWith ⟨.crc1, 0x06#8, 0x01#8, 0x01#8, [0xAA#8]⟩))
      ⟨.crc2, 0x06#8, 0x01#8, 0x01#8, [0xAA#8]⟩ = true := by decide
theorem test_dCrc2 :
    gives (exec (.dCrc2 0xFF#8) (observed ⟨.crc2, 0x06#8, 0x03#8, 0x03#8, [0xAA#8, 0x7E#8, 0x00#8]⟩))
      (fun t => decide (t.dec = ⟨.sync1, 0x00#8, 0x00#8, 0x03#8, []⟩) &&
        decide (t.out.calls = [⟨5, ⟨0x06#8, 0x03#8, [0xAA#8, 0x7E#8, 0x00#8]⟩⟩])) = true := by decide
/-- T10: with no observer the message is discarded. -/
theorem test_dCrc2_unobserved :
    gives (exec (.dCrc2 0x00#8) (runningWith ⟨.crc2, 0x01#8, 0x00#8, 0x00#8, []⟩))
      (fun t => decide (t.dec = Dec.init) && decide (t.out.calls = []) && decide (t.obsRun = none)) = true := by decide
/-- E3. -/
theorem test_eEncode :
    gives (exec (.eEncode msgSyncs) State.reset)
      (fun t => decide (t.out.frame = [0x7E#8, 0x7E#8, 0x7E#8, 0x02#8, 0x7E#8, 0x7E#8, 0x00#8, 0x00#8])) = true := by decide
/-- E7. -/
theorem test_eEncode_refuses : refusedAs (exec (.eEncode msgShort) State.reset) .illFormedMessage = true := by decide
/-- T1. -/
theorem test_tRxDeliver_empty : exec (.tRxDeliver []) running = .next running := by
  simp only [exec, execTRxDeliver, State.rxRoom, fits_rx_one (n := running.rxq.length + ([] : List Byte).length) (by decide)]
  rfl
/-- T4: the failure count is cleared, link_lost stays. -/
theorem test_tRxDeliver_sticky :
    exec (.tRxDeliver [0x7E#8]) { running with rderr := 3, linkLost := true } =
      .next { running with rderr := 0, linkLost := true, rxq := [0x7E#8] } := by
  simp only [exec, execTRxDeliver, State.rxRoom, fits_rx_one (n := running.rxq.length + [0x7E#8].length) (by decide)]
  rfl
/-- T3, its third failure. -/
theorem test_tRxError :
    gives (exec .tRxError { running with rderr := 2 })
      (fun t => decide (t.rderr = 3) && t.linkLost && t.run) = true := by decide
/-- T2, its second failure. -/
theorem test_tRxError_second :
    gives (exec .tRxError { running with rderr := 1 }) (fun t => decide (t.rderr = 2) && !t.linkLost) = true := by decide
/-- The head is taken, not the tail. -/
theorem test_pRxConsume :
    gives (exec .pRxConsume { running with rxq := [0x7E#8, 0x01#8] })
      (fun t => decide (t.dec = ⟨.sync2, 0x00#8, 0x00#8, 0x00#8, []⟩) && decide (t.rxq = [0x01#8])) = true := by decide
/-- R118: not while the observer runs. -/
theorem test_pRxConsume_waits :
    gives (exec .pRxConsume { running with rxq := [0x7E#8], obsRun := some ⟨5, msgA⟩ })
      (fun t => decide (t.dec = Dec.init) && decide (t.rxq = [0x7E#8]) && decide (t.env.pending.length = 1)) = true := by decide
theorem test_tTxDrain :
    gives (exec (.tTxDrain 2) { running with txq := [0x01#8, 0x02#8, 0x03#8] })
      (fun t => decide (t.out.wire = [0x01#8, 0x02#8]) && decide (t.txq = [0x03#8])) = true := by decide
theorem test_tTxDrain_zero : refusedAs (exec (.tTxDrain 0) running) .drainOfNothing = true := by decide
/-- R121. -/
theorem test_hStart :
    gives (exec (.hStart "dev" 115200) { stoppedChoosing [1] with linkLost := true, obs := some 5 })
      (fun t => t.run && !t.dead && !t.linkLost && decide (t.dec = Dec.init) && decide (t.obs = some 5)) = true := by decide
/-- T11. -/
theorem test_hStart_fails :
    gives (exec (.hStart "dev" 115200) (stoppedChoosing [0]))
      (fun t => !t.run && t.dead && decide (t.out.raised = [⟨.caller 0, .unavailable⟩])) = true := by decide
/-- T9: the last registration wins. -/
theorem test_hSetObs : gives (exec (.hSetObs 6) (observed Dec.init)) (fun t => decide (t.obs = some 6)) = true := by decide
/-- T6, where the environment fails the write after three bytes. -/
theorem test_hSend_fails :
    gives (exec (.hSend ⟨0x01#8, 0x00#8, []⟩) (choosing [0, 3]))
      (fun t => decide (t.txq = [0x7E#8, 0x7E#8, 0x01#8]) && decide (t.out.raised = [⟨.caller 0, .writeError⟩]) &&
        decide (t.wlock = none)) = true := by
  simp only [exec, execHSend, State.txRoom, fits_tx_frame (n := (choosing [0, 3]).txq.length + (Config.frameMin + (0x00#8).toNat)) (by decide)]
  decide
/-- T7. -/
theorem test_hSend_refused : refusedAs (exec (.hSend msgA) State.reset) .notRunning = true := by decide
/-- R129: one of two waiting bytes is decoded and one of two outbound bytes sent. -/
theorem test_hStop :
    gives (exec .hStop { choosing [1, 1] with rxq := [0x7E#8, 0x7E#8], txq := [0x01#8, 0x02#8] })
      (fun t => !t.run && decide (t.rxq = []) && decide (t.txq = []) && decide (t.out.wire = [0x01#8])) = true := by decide
/-- R129: a residual consume step calls the observer; run is still 1, and one byte is left to the stop. -/
theorem test_hStop_heldUp :
    gives (exec .hStop stopCaller)
      (fun t => t.run && decide (t.obsRun = some ⟨5, msgA⟩) && decide (t.rxq = [0x7E#8]) &&
        decide (t.stopping = some ⟨.caller 0, 1⟩) && decide (t.env.pending = [⟨.caller 0, .op .hStop⟩])) = true := by decide
/-- R129: "an H.SEND performed by the observer in those steps is legal" (the observer's own turn, during the stop). -/
theorem test_hSend_during_stop :
    gives (exec (.hSend msgA) { heldUp with turn := .observer })
      (fun t => t.run && decide (t.txq = [0x7E#8, 0x7E#8, 0x06#8, 0x00#8, 0x00#8, 0x00#8])) = true := by
  simp only [exec, execHSend, State.txRoom, fits_tx_frame (n := ({ heldUp with turn := .observer } : State).txq.length +
    (Config.frameMin + msgA.length.toNat)) (by decide)]
  decide
/-- T8. -/
theorem test_hStop_refused : refusedAs (exec .hStop State.reset) .notRunning = true := by decide
/-- R53: a listed value is what D.CMD does with it; and only in CMD. -/
theorem test_cmdid :
    leaves (exec .cmdidFirmwareVersion (runningWith ⟨.cmd, 0x00#8, 0x00#8, 0x00#8, []⟩)) ⟨.len, 0x01#8, 0x00#8, 0x00#8, []⟩ = true ∧
    leaves (exec .cmdidStartNewLog (runningWith ⟨.cmd, 0x00#8, 0x00#8, 0x00#8, []⟩)) ⟨.len, 0x0A#8, 0x00#8, 0x00#8, []⟩ = true ∧
    refusedAs (exec .cmdidSetTime running) .arcNotSelected = true := by decide

/-! ## The step, and where a table word is put -/

/-- The byte of the row D.S1.HIT is the next thing the step runs. -/
theorem test_fetch_s1Hit :
    leaves (step (State.reset.withFetchWord 8 0x7E)) ⟨.sync2, 0x00#8, 0x00#8, 0x00#8, []⟩ = true := by decide
/-- The byte of a row of format CMDID is read in CMD. -/
theorem test_fetch_cmdid :
    leaves (step (State.reset.withFetchWord 8 0x04)) ⟨.len, 0x04#8, 0x00#8, 0x00#8, []⟩ = true := by decide
/-- The shortest frame of the row E.ENCODE: SYNC SYNC and zeros. -/
theorem test_fetch_encode :
    gives (step (State.reset.withFetchWord 16 0x7E7E))
      (fun t => decide (t.out.frame = [0x7E#8, 0x7E#8, 0x00#8, 0x00#8, 0x00#8, 0x00#8])) = true := by decide
/-- R161: what an agent does not have it may not ask for. -/
theorem test_step_notPermitted :
    refusedAs (step { running with env := { running.env with
      sched := [.rxSide], pending := [⟨.rxSide, .op .hStop⟩] } }) .notPermitted = true := by decide
/-- R160: the observer sends from inside its invocation; then it returns. -/
theorem test_step_observer_returns :
    gives (step { observed Dec.init with obsRun := some ⟨5, msgA⟩, env := { running.env with sched := [.observer] } })
      (fun t => decide (t.obsRun = none)) = true := by decide

/-! ## Witnesses: for every statement with hypotheses, and every clause of it, data that meet them -/

theorem witness_HuntingArcsOnlyMoveTheState :
    running.dec.dstate = .sync1 ∧ (runningWith ⟨.sync2, 0x00#8, 0x00#8, 0x00#8, []⟩).dec.dstate = .sync2 ∧
    (0x7D#8 : Byte) ≠ 0x7E#8 := by decide

theorem witness_HeaderArcsStoreTheirByte :
    (runningWith ⟨.cmd, 0x00#8, 0x00#8, 0x00#8, []⟩).dec.dstate = .cmd ∧
    (runningWith ⟨.len, 0x06#8, 0x00#8, 0x05#8, []⟩).dec.dstate = .len ∧ (0xFF#8 : Byte) ≠ 0x00#8 := by decide

/-- Both clauses, at the largest length and at the ends of the range of idx. -/
theorem witness_PayloadArcsAppendAndCount :
    (∃ s : State, s.dec.dstate = .data ∧ s.dec.idx.toNat + 1 ≠ s.dec.len.toNat ∧ s.dec.idx = 0x00#8 ∧ s.dec.len = 0xFF#8) ∧
    (∃ s : State, s.dec.dstate = .data ∧ s.dec.idx.toNat + 1 = s.dec.len.toNat ∧ s.dec.idx = 0xFE#8 ∧ s.dec.len = 0xFF#8) ∧
    (∃ s : State, s.dec.dstate = .data ∧ s.dec.idx.toNat + 1 ≠ s.dec.len.toNat ∧ s.dec.idx = 0xFF#8 ∧ s.dec.len = 0x00#8) :=
  ⟨⟨runningWith ⟨.data, 0x06#8, 0xFF#8, 0x00#8, []⟩, by decide⟩,
   ⟨runningWith ⟨.data, 0x06#8, 0xFF#8, 0xFE#8, []⟩, by decide⟩,
   ⟨runningWith ⟨.data, 0x06#8, 0x00#8, 0xFF#8, []⟩, by decide⟩⟩

theorem witness_FirstTrailerByteIsDiscarded :
    (runningWith ⟨.crc1, 0x06#8, 0x00#8, 0x00#8, []⟩).dec.dstate = .crc1 := by decide

theorem witness_SecondTrailerByteDeliversTheMessage :
    (runningWith ⟨.crc2, 0x06#8, 0x00#8, 0x00#8, []⟩).dec.dstate = .crc2 ∧
    (runningWith ⟨.crc2, 0x06#8, 0x00#8, 0x00#8, []⟩).obs = none ∧
    (observed ⟨.crc2, 0x06#8, 0x00#8, 0x00#8, []⟩).dec.dstate = .crc2 ∧
    (observed ⟨.crc2, 0x06#8, 0x00#8, 0x00#8, []⟩).obs = some 5 := by decide

/-- An arc of another slot, and an arc of this slot with a byte that selects its neighbour. -/
theorem witness_AnArcOutOfPlaceIsRefused :
    (encode (.dCmd 0x06#8) = some (.rxb .cmd 0x06#8) ∧ running.dec.slot ≠ .cmd) ∧
    (encode (.dS1Miss 0x7E#8) = some (.rxb .sync1 0x7E#8) ∧ (Instr.dS1Miss 0x7E#8).wf = false) := by decide

theorem witness_CommandValuesAreOpaque :
    encode .cmdidStartNewLog = some (.cmdid 0x0A#8) ∧
    (runningWith ⟨.cmd, 0x00#8, 0x00#8, 0x00#8, []⟩).dec.dstate = .cmd := by decide

/-- The last payload byte of the longest message, and the byte that completes a message. -/
theorem witness_DecoderKeepsItsTable :
    Dec.Inv ⟨.data, 0xAA#8, 0xFF#8, 0xFE#8, List.replicate 254 0x11#8⟩ ∧
    Dec.Inv ⟨.crc2, 0x06#8, 0x00#8, 0x00#8, []⟩ ∧
    (decStep ⟨.crc2, 0x06#8, 0x00#8, 0x00#8, []⟩ 0xFF#8).2 = some msgA :=
  ⟨⟨List.length_replicate, by decide⟩, ⟨rfl, rfl⟩, by decide⟩

/-- The shortest and the longest message, and a hunting decoder with a stale idx. -/
theorem witness_EncodedFramesDecodeToTheirMessages :
    msgA.wf = true ∧ msgLongest.wf = true ∧ (∀ m ∈ [msgA, msgSyncs], m.wf = true) ∧
    Dec.Inv { Dec.init with idx := 0x06#8 } := by
  exact ⟨by decide, (wf_iff _).2 List.length_replicate, by decide, rfl, rfl, rfl⟩

theorem witness_TransparentPrefixesKeepTheFrame :
    Transparent [0x13#8, 0x7E#8, 0x42#8] ∧ Blocks [0x13#8, 0x7E#8, 0x42#8] ∧ msgA.wf = true :=
  ⟨by unfold Transparent; decide, .noise (by decide) (.lone (by decide) .nil), by decide⟩

theorem witness_AnExtraSyncShiftsTheFrame :
    (msgA.wf = true ∧ msgA.command ≠ 0x00#8) ∧
    (Message.wf ⟨0x00#8, 0x01#8, [0x00#8]⟩ = true ∧ (⟨0x00#8, 0x01#8, [0x00#8]⟩ : Message).command = 0x00#8) := by decide

/-- The longest way back (from SYNC_2), the longest payload, and the shortest way. -/
theorem witness_TheDecoderHuntsAgainWithinTheBound :
    (Dec.Inv { Dec.init with dstate := .sync2 } ∧ (List.replicate 260 0x7E#8).length = Dec.bound { Dec.init with dstate := .sync2 }) ∧
    (Dec.Inv ⟨.data, 0x06#8, 0xFF#8, 0x00#8, []⟩ ∧ (List.replicate 257 0x7E#8).length = Dec.bound ⟨.data, 0x06#8, 0xFF#8, 0x00#8, []⟩) ∧
    (Dec.Inv ⟨.crc2, 0x06#8, 0x00#8, 0x00#8, []⟩ ∧ ([] : List Byte).length < Dec.bound ⟨.crc2, 0x06#8, 0x00#8, 0x00#8, []⟩) ∧
    Dec.Inv ⟨.cmd, 0x00#8, 0x00#8, 0xFF#8, []⟩ ∧ Dec.Inv ⟨.len, 0xFF#8, 0x00#8, 0xFF#8, []⟩ :=
  ⟨⟨⟨rfl, rfl, rfl⟩, List.length_replicate⟩, ⟨⟨rfl, by decide⟩, List.length_replicate⟩, ⟨⟨rfl, rfl⟩, by decide⟩,
    ⟨rfl, rfl, rfl⟩, rfl, rfl⟩

theorem witness_EveryStateLeadsBackToInit : Dec.Inv ⟨.data, 0x06#8, 0x01#8, 0x00#8, []⟩ := by simp [Dec.Inv]

theorem witness_TransitionGraphIsExact : DState.crc1 ∈ successors .data ∧ DState.sync2 ∈ successors .sync1 := by decide

theorem witness_StaleIndexIsNeverSeen :
    (⟨.crc2, 0x06#8, 0x00#8, 0x05#8, []⟩ : Dec).dstate = .crc2 ∧
    (⟨.len, 0x06#8, 0x00#8, 0x05#8, []⟩ : Dec).dstate = .len ∧
    DState.data ∈ decTrace ⟨.len, 0x06#8, 0x00#8, 0x05#8, []⟩ [0x01#8] ∧
    DState.crc1 ∈ decTrace ⟨.len, 0x06#8, 0x00#8, 0x05#8, []⟩ [0x00#8] := by decide

/-- The shortest and the longest payload. -/
theorem witness_NoResynchronisationInsideAFrame :
    Dec.Inv ⟨.cmd, 0x00#8, 0x00#8, 0x06#8, []⟩ ∧ ([] : List Byte).length = (0x00#8).toNat ∧
    (List.replicate 255 0x7E#8).length = (0xFF#8).toNat := by
  exact ⟨⟨rfl, rfl, rfl⟩, rfl, List.length_replicate⟩

/-- Of EncodeReturnsTheFrame, EncodeByPosition, SerialiserSendsTheFrame and EncodeIsInjective: the shortest and the longest
message, the first and the last position. -/
theorem witness_encoder_statements :
    msgA.wf = true ∧ msgLongest.wf = true ∧ 0 < 6 + msgA.length.toNat ∧ 260 < 6 + msgLongest.length.toNat ∧
    encodeMsg msgA = encodeMsg msgA := by
  refine ⟨by decide, (wf_iff _).2 List.length_replicate, by decide, by decide, rfl⟩

/-- A send in progress, of which one byte has been accepted and drained, and the same send finished; H.SEND succeeds there,
and the whole frame has room. -/
theorem witness_SerialSendIsTheAtomicSend :
    (∃ x p, Serial.run ⟨choosing [1], none⟩ [.take msgA, .accept, .drain 1] = some x ∧ x.sending = some p ∧ p.epos = 1#9) ∧
    (∃ x, Serial.run ⟨choosing [1], none⟩ [.take msgA, .accept, .drain 1, .accept, .accept, .accept, .accept, .accept] = some x ∧
      x.sending = none) ∧
    (∃ a, exec (.hSend msgA) (choosing [1]) = .next a) ∧ (choosing [1]).drawn 1 = 1 ∧
    fits Config.txDepth ((choosing [1]).txq.length + (6 + msgA.length.toNat)) = true ∧
    (choosing [1]).wlock = none ∧ (choosing [1]).run = true ∧ (choosing [1]).dead = false ∧ msgA.wf = true := by
  refine ⟨⟨⟨{ choosing [1] with wlock := some (.caller 0), out := { (choosing [1]).out with wire := [0x7E#8] } },
      some ⟨msgA, 1#9⟩⟩, ⟨msgA, 1#9⟩, ?_, rfl, rfl⟩,
    ⟨⟨{ choosing [1] with
        txq := [0x7E#8, 0x06#8, 0x00#8, 0x00#8, 0x00#8], out := { (choosing [1]).out with wire := [0x7E#8] } }, none⟩, ?_, rfl⟩,
    ⟨(choosing [1]).writeFrame (encodeMsg msgA), ?_⟩, by decide, fits_tx_frame (by decide), rfl, rfl, rfl, by decide⟩
  iterate 2
    simp only [Serial.run, Serial.next, Serial.take, Serial.accept, Serial.advance, Serialiser.byte, Serialiser.start,
      Serialiser.accepted, State.txRoom, State.lock, State.append, State.unlock, State.drain, choosing, running,
      runningWith, State.reset, msgA]
    simp [fits_tx_frame, encodeByte, Message.wf, Config.frameMin, Config.headerBytes, Config.trailerBytes, Config.sync,
      Config.trailerFill]
  · simp only [exec, execHSend, State.txRoom, fits_tx_frame (n := (choosing [1]).txq.length + (Config.frameMin + msgA.length.toNat)) (by decide)]
    rfl

theorem witness_EncodedOperationsDecodeBack :
    (Instr.dLenNz 0xFF#8).wf = true ∧ encode (.dLenNz 0xFF#8) = some (.rxb .len 0xFF#8) := by decide

theorem witness_DecodedBitsEncodeBack : decode (.rxb .len 0xFF#8) = .ok (.dLenNz 0xFF#8) := by decide

/-- The pump's turn on a block with a byte waiting. -/
def pumpTurn : State := { running with rxq := [0x7E#8], env := { running.env with sched := [.pump] } }

theorem witness_StepRunsTheDecodedByte :
    pumpTurn.nextTurn.turn = .pump ∧ pumpTurn.run = true ∧ pumpTurn.obsRun = none ∧ pumpTurn.stopping = none ∧
    takeRequest .pump pumpTurn.env.pending = none ∧ pumpTurn.rxq = [0x7E#8] ∧
    decode (.rxb pumpTurn.dec.slot 0x7E#8) = .ok .dS1Hit := by decide

/-- A caller's turn with something to do. -/
def callerAsks (act : Action) : State :=
  { running with env := { running.env with sched := [.caller 1], pending := [⟨.caller 1, act⟩] } }

/-- A registration to make. -/
def callerTurn : State := callerAsks (.op (.hSetObs 6))

theorem witness_StepPerformsTheRequest :
    State.canAct (State.nextTurn { running with env := { running.env with sched := [.observer] } }) = false ∧
    callerTurn.nextTurn.canAct = true ∧
    takeRequest callerTurn.nextTurn.turn callerTurn.env.pending = some (.op (.hSetObs 6), []) ∧
    issuedBy (.hSetObs 6) callerTurn.nextTurn.turn = true ∧
    (callerAsks (.op .tRxError)).nextTurn.canAct = true ∧
    takeRequest (callerAsks (.op .tRxError)).nextTurn.turn (callerAsks (.op .tRxError)).env.pending = some (.op .tRxError, []) ∧
    issuedBy .tRxError (callerAsks (.op .tRxError)).nextTurn.turn = false ∧
    encode (.dCmd 0xFF#8) = some (.rxb .cmd 0xFF#8) ∧ encode .cmdidSetTime = some (.cmdid 0x03#8) ∧
    (callerAsks .obsReturn).nextTurn.canAct = true ∧ (callerAsks .obsReturn).nextTurn.turn ≠ .observer ∧
    takeRequest (callerAsks .obsReturn).nextTurn.turn (callerAsks .obsReturn).env.pending = some (.obsReturn, []) := by decide

/-- The observer's turn, with these requests. -/
def observerTurn (l : List Request) : State :=
  { observed Dec.init with
    obsRun := some ⟨5, msgA⟩, env := { running.env with sched := [.observer], pending := l } }

theorem witness_TheObserversReturnEndsItsInvocation :
    (observerTurn []).nextTurn.turn = .observer ∧ (observerTurn []).obsRun ≠ none ∧
    takeRequest .observer (observerTurn [⟨.observer, .obsReturn⟩]).env.pending = some (.obsReturn, []) ∧
    takeRequest .observer (observerTurn []).env.pending = none := by decide

theorem witness_NoReceivedByteStopsTheBlock : takeRequest pumpTurn.nextTurn.turn pumpTurn.env.pending = none := by decide

/-- Of DeliverAppendsTheChunk (also where a bounded rxq is full) and EmptyReadOnlyClearsTheFailureCount. -/
theorem witness_deliver_statements :
    running.run = true ∧ fits Config.rxDepth (running.rxq.length + [0x7E#8].length) = true ∧
    fits Config.rxDepth running.rxq.length = true ∧ State.reset.run = false ∧
    (∀ d, Config.rxDepth = some d → fits Config.rxDepth (d + 1) = false) :=
  ⟨rfl, fits_rx_one (by decide), fits_rx_one (by decide), rfl, fun d h => by simp [fits, h]⟩

/-- Both sides of the limit. -/
theorem witness_FailedReadIsCounted :
    running.run = true ∧ running.rderr + 1 < 3 ∧ ({ running with rderr := 1 } : State).rderr + 1 < 3 ∧
    3 ≤ ({ running with rderr := 2 } : State).rderr + 1 ∧ State.reset.run = false := by decide

/-- A byte that completes nothing, one that completes a message with and without an observer, and each reason to wait. -/
theorem witness_ConsumeFeedsTheHeadOfTheQueue :
    (pumpTurn.run = true ∧ pumpTurn.rxq = [0x7E#8] ∧ pumpTurn.obsRun = none ∧ (decStep pumpTurn.dec 0x7E#8).2 = none) ∧
    (decStep ⟨.crc2, 0x06#8, 0x00#8, 0x00#8, []⟩ 0x7E#8).2 = some msgA ∧
    (runningWith ⟨.crc2, 0x06#8, 0x00#8, 0x00#8, []⟩).obs = none ∧ (observed ⟨.crc2, 0x06#8, 0x00#8, 0x00#8, []⟩).obs = some 5 ∧
    State.reset.run = false ∧ running.rxq = [] ∧ ({ running with obsRun := some ⟨5, msgA⟩ } : State).obsRun ≠ none := by decide

/-- The smallest and the largest count. -/
theorem witness_DrainMovesTheHeadToTheWire :
    1 ≤ 1 ∧ 1 ≤ ({ running with txq := [0x01#8, 0x02#8] } : State).txq.length ∧
    1 ≤ 2 ∧ 2 ≤ ({ running with txq := [0x01#8, 0x02#8] } : State).txq.length := by decide

/-- One too many. -/
theorem witness_DrainWaitsForItsBytes : ({ running with txq := [0x01#8, 0x02#8] } : State).txq.length < 3 := by decide

theorem witness_StartOpensOrKills :
    (stoppedChoosing [1]).run = false ∧ (stoppedChoosing [1]).dead = false ∧ (stoppedChoosing [1]).turn ≠ .observer ∧
    (stoppedChoosing [1]).drawn 1 = 1 ∧ (stoppedChoosing [0]).run = false ∧ (stoppedChoosing [0]).drawn 1 ≠ 1 := by decide

/-- The write succeeds; it fails with nothing, and with all, of the frame in txq. -/
theorem witness_SendAppendsTheFrameOrAPartOfIt :
    (choosing [1]).dead = false ∧ (choosing [1]).run = true ∧ msgA.wf = true ∧ (choosing [1]).wlock = none ∧
    fits Config.txDepth ((choosing [1]).txq.length + (6 + msgA.length.toNat)) = true ∧ (choosing [1]).drawn 1 = 1 ∧
    (choosing [0]).drawn 1 ≠ 1 ∧ (choosing [0, 0]).env.choices = [0, 0] ∧ (choosing [0, 6]).env.choices = [0, 6] ∧
    6 ≤ 6 + msgA.length.toNat :=
  ⟨rfl, rfl, by decide, rfl, fits_tx_frame (by decide), by decide, by decide, rfl, rfl, by decide⟩

/-- The lock is held; and a bounded txq is full. -/
theorem witness_SendWaitsForRoom :
    running.dead = false ∧ running.run = true ∧ msgA.wf = true ∧
    ({ running with wlock := some (.caller 1) } : State).wlock ≠ none ∧
    (∀ d, Config.txDepth = some d → fits Config.txDepth (d + (6 + msgA.length.toNat)) = false) :=
  ⟨rfl, rfl, by decide, by decide, fun d h => by simp [fits, h]⟩

/-- A stop that calls nobody and one that calls the observer, with what they draw; and each of the two resumed. -/
theorem witness_StopEndsTheConnection :
    (stopCaller.run = true ∧ stopCaller.dead = false ∧ stopCaller.turn ≠ .observer ∧ stopCaller.obsRun = none) ∧
    stopCaller.stopping = none ∧ stopCaller.env.choices = [2, 0] ∧ 2 ≤ stopCaller.rxq.length ∧
    callsOf stopCaller.obs (decRun stopCaller.dec (stopCaller.rxq.take (stopCaller.drawn stopCaller.rxq.length))).2 ≠ [] ∧
    callsOf stopCaller.obs (decRun stopCaller.dec (stopCaller.rxq.take 0)).2 = [] ∧
    callsOf stopCaller.obs (decRun stopCaller.dec (stopCaller.rxq.take 2)).2 ≠ [] ∧
    ((choosing [0, 0]).stopping = none ∧
      callsOf (choosing [0, 0]).obs (decRun (choosing [0, 0]).dec ((choosing [0, 0]).rxq.take ((choosing [0, 0]).drawn 0))).2 = []) ∧
    (({ heldUp with obsRun := none } : State).turn = .caller 0 ∧ heldUp.stopping = some ⟨heldUp.turn, 1⟩ ∧
      1 ≤ heldUp.rxq.length ∧ callsOf heldUp.obs (decRun heldUp.dec (heldUp.rxq.take 1)).2 = []) ∧
    (({ stopCaller with stopping := some ⟨.caller 0, 1⟩ } : State).stopping = some ⟨stopCaller.turn, 1⟩ ∧
      callsOf stopCaller.obs (decRun stopCaller.dec (stopCaller.rxq.take 1)).2 ≠ []) := by decide

/-- One message, whose observer returns between the stopping caller's two turns. -/
theorem witness_StopEndsAfterItsObserversReturn :
    ∃ s : State, s.run = true ∧ s.dead = false ∧ s.obsRun = none ∧ s.stopping = none ∧
      s.env.pending = [⟨.caller 0, .op .hStop⟩] ∧ 2 ≤ s.rxq.length ∧ 0 ≤ s.txq.length ∧ s.env.choices = [2, 0] ∧
      (callsOf s.obs (decRun s.dec (s.rxq.take 2)).2).length = 1 ∧
      s.env.sched = (List.replicate (callsOf s.obs (decRun s.dec (s.rxq.take 2)).2).length
        [Agent.caller 0, Agent.observer]).flatten ++ [.caller 0] :=
  ⟨{ stopCaller with env := { stopCaller.env with
      sched := [.caller 0, .observer, .caller 0], pending := [⟨.caller 0, .op .hStop⟩] } }, by decide⟩

/-- The observer runs; and another agent's stop is in progress. -/
theorem witness_StopWaitsForTheObserver :
    heldUp.run = true ∧ heldUp.dead = false ∧ heldUp.turn ≠ .observer ∧ heldUp.obsRun ≠ none ∧
    ({ heldUp with obsRun := none, turn := .caller 1 } : State).turn ≠ .observer ∧
    heldUp.stopping = some ⟨.caller 0, 1⟩ ∧ Agent.caller 0 ≠ ({ heldUp with turn := .caller 1 } : State).turn := by decide

theorem witness_MisuseIsRefused :
    ({ running with turn := .observer } : State).turn = .observer ∧ running.turn ≠ .observer ∧
    ({ running with dead := true } : State).dead = true ∧ running.dead = false ∧ running.run = true ∧
    (stoppedChoosing []).run = false ∧ (stoppedChoosing []).turn ≠ .observer ∧ msgShort.wf = false := by decide

/-- One operation of the receive side and one of the pump. -/
theorem witness_ReceivingIgnoresTheTransmitSide :
    (issuedBy .tRxError .rxSide = true ∧ ∃ t, exec .tRxError running = .next t) ∧
    (issuedBy .pRxConsume .pump = true ∧ ∃ t, exec .pRxConsume running = .next t) :=
  ⟨⟨by decide, _, rfl⟩, ⟨by decide, _, rfl⟩⟩

/-- An encoding, a drain, and a send. -/
theorem witness_SendingIgnoresTheReceiveSide :
    (∃ t, exec (.eEncode msgA) running = .next t) ∧
    (issuedBy (.tTxDrain 1) .txSide = true ∧ ∃ t, exec (.tTxDrain 1) running = .next t) ∧
    (∃ t, exec (.hSend msgA) { running with wlock := some .observer } = .next t) :=
  ⟨⟨_, rfl⟩, ⟨by decide, _, rfl⟩, ⟨_, rfl⟩⟩

/-- A running block that meets the invariant, on the pump's turn. -/
theorem pumpTurn_inv : pumpTurn.Inv where
  dec _ := ⟨rfl, rfl, rfl⟩
  dead h := by cases h
  rxq := fits_rx_one (by decide)
  txq := fits_tx_frame (by decide)
  closed h := by cases h
  wlock := rfl
  rderr := by decide
  lost h := by cases h
  stopping _ h := by cases h

/-- A stop is held up: the invariant holds with the observer running. -/
theorem heldUp_inv : heldUp.Inv where
  dec _ := ⟨rfl, rfl, rfl⟩
  dead h := by cases h
  rxq := fits_rx_one (by decide)
  txq := fits_tx_frame (by decide)
  closed h := by cases h
  wlock := rfl
  rderr := by decide
  lost h := by cases h
  stopping st h := by cases h; decide

theorem witness_NothingIsDecodedWhileTheObserverRuns :
    heldUp.Inv ∧ heldUp.obsRun = some ⟨5, msgA⟩ ∧ ∃ t, step heldUp = .next t := ⟨heldUp_inv, rfl, _, rfl⟩

/-- Of EveryStepKeepsTheInvariant, CallsAreAddedWellFormed, ReceivedBytesKeepTheirOrder and
TransmittedBytesKeepTheirOrder. -/
theorem witness_invariant_statements : pumpTurn.Inv ∧ ∃ t, step pumpTurn = .next t := ⟨pumpTurn_inv, _, rfl⟩

/-- Two alternating turns, with one byte waiting. -/
def twoTurns : State := { pumpTurn with env := { pumpTurn.env with sched := [.pump, .observer, .caller 0] } }

theorem witness_ThePumpFeedsTheBytesInOrder :
    twoTurns.run = true ∧ twoTurns.obsRun = none ∧ twoTurns.stopping = none ∧ twoTurns.env.pending = [] ∧ 1 ≤ twoTurns.rxq.length ∧
    twoTurns.env.sched = (List.replicate 1 [Agent.pump, Agent.observer]).flatten ++ [.caller 0] := by decide

/-- A stopped block on the turn of a caller that starts it. -/
def startTurn : State :=
  { stoppedChoosing [1] with env := { (stoppedChoosing [1]).env with
      sched := [.caller 1], pending := [⟨.caller 1, .op (.hStart "dev" 115200)⟩] } }

theorem witness_NothingIsDecodedWhileStopped :
    startTurn.run = false ∧ startTurn.obsRun = none ∧ ∃ t, step startTurn = .next t := ⟨rfl, rfl, _, rfl⟩

theorem witness_DeadInstancesNeverRun :
    ∃ t, step { callerTurn with dead := true, run := false } = .next t := ⟨_, rfl⟩

theorem witness_OnlyAStartClearsLinkLost :
    gives (step { startTurn with linkLost := true }) (fun t => !t.linkLost) = true := by decide

theorem witness_OnlyARegistrationChangesTheObserver :
    gives (step callerTurn) (fun t => decide (t.obs ≠ callerTurn.obs)) = true := by decide

/-- Each clause: nothing raised, a start that fails, a send that fails. -/
theorem witness_ErrorsAreRaisedToTheirCause :
    gives (step callerTurn) (fun t => decide (t.out.raised = [])) = true ∧
    gives (step { startTurn with env := { startTurn.env with choices := [0] } })
      (fun t => decide (t.out.raised = [⟨.caller 1, .unavailable⟩])) = true ∧
    (∃ t, exec (.hSend msgA) (choosing [0, 3]) = .next t ∧ t.out.raised = [⟨.caller 0, .writeError⟩]) := by
  refine ⟨by decide, by decide, ?_⟩
  refine ⟨(choosing [0, 3]).writeFrame (encodeMsg msgA), ?_, rfl⟩
  simp only [exec, execHSend, State.txRoom, fits_tx_frame (n := (choosing [0, 3]).txq.length + (Config.frameMin + msgA.length.toNat)) (by decide)]
  rfl

end Sys2Proof.Tests
end

section
/-! PROOFS. The decoder arcs as operations, and the decoder's run over whole frames (spec/40_decoder.md R71 to R77, R80,
R84, R87). -/

namespace Sys2Proof.Machine

/-! ## Arcs that complete no message -/

/-- The arc that the dispatch table selects for a byte, where that byte completes no message, writes the decoder's
registers and nothing else. -/
theorem exec_of_decStep_quiet {s : State} {b : Byte} {i : Instr} {d : Dec} (hi : decodeRxb s.dec.slot b = i)
    (hd : decStep s.dec b = (d, none)) : exec i s = .next { s with dec := d } := by
  subst hi
  simp only [exec_decodeRxb, State.feed, hd]

/-- Settles O3: each hunting arc is the one selected by its state and byte, and completes no message. -/
theorem huntingArcsOnlyMoveTheState : Obligations.HuntingArcsOnlyMoveTheState := by
  intro s b
  refine ⟨fun h => ?_, fun h hb => ?_, fun h => ?_, fun h hb => ?_⟩
  · exact exec_of_decStep_quiet (b := Config.sync) (by simp [decodeRxb, slot_sync1 h]) (decStep_s1Hit h)
  · exact exec_of_decStep_quiet (by simp [decodeRxb, slot_sync1 h, hb]) (decStep_s1Miss h hb)
  · exact exec_of_decStep_quiet (b := Config.sync) (by simp [decodeRxb, slot_sync2 h]) (decStep_s2Hit h)
  · exact exec_of_decStep_quiet (by simp [decodeRxb, slot_sync2 h, hb]) (decStep_s2Miss h hb)

/-- Settles O4: each header arc is the one selected by its state and byte, and completes no message. -/
theorem headerArcsStoreTheirByte : Obligations.HeaderArcsStoreTheirByte := by
  intro s b
  refine ⟨fun h => ?_, fun h => ?_, fun h hb => ?_⟩
  · exact exec_of_decStep_quiet (by simp [decodeRxb, slot_cmd h]) (decStep_cmd b h)
  · exact exec_of_decStep_quiet (b := 0x00#8) (by simp [decodeRxb, slot_len h]) (decStep_lenZ h)
  · exact exec_of_decStep_quiet (by simp [decodeRxb, slot_len h, hb]) (decStep_lenNz h hb)

/-- Settles O6: in CRC_1 every byte selects D.CRC1, which completes no message. -/
theorem firstTrailerByteIsDiscarded : Obligations.FirstTrailerByteIsDiscarded := by
  intro s b h
  exact exec_of_decStep_quiet (by simp [decodeRxb, slot_crc1 h]) (decStep_crc1 b h)

/-! ## Runs and traces, one byte at a time -/

theorem decRun_cons_quiet {d d' : Dec} {b : Byte} (bs : List Byte) (h : decStep d b = (d', none)) :
    decRun d (b :: bs) = decRun d' bs := by
  simp [decRun, h]

theorem decRun_cons_emit {d d' : Dec} {b : Byte} {m : Message} (bs : List Byte) (h : decStep d b = (d', some m)) :
    decRun d (b :: bs) = ((decRun d' bs).1, m :: (decRun d' bs).2) := by
  simp [decRun, h]

theorem decTrace_cons {d d' : Dec} {b : Byte} {o : Option Message} (bs : List Byte) (h : decStep d b = (d', o)) :
    decTrace d (b :: bs) = d'.dstate :: decTrace d' bs := by
  simp [decTrace, h]

/-! ## One frame, whatever its trailer bytes are and whatever follows it -/

/-- The decoder that has read all of m's frame but trailer byte 1. -/
def Dec.holding (m : Message) : Dec :=
  { dstate := .crc2, cmd := m.command, len := m.length, idx := m.length, pay := m.payload }

@[simp] theorem holding_completed (m : Message) : (Dec.holding m).completed = m := rfl

@[simp] theorem holding_crc2 (m : Message) : (Dec.holding m).crc2 = { Dec.init with idx := m.length } := rfl

/-- From DATA, the payload bytes that are still missing are appended, and the last of them leads to CRC_1. -/
theorem decRun_payload (p : List Byte) : ∀ (b : Byte) (rest : List Byte) (d : Dec), d.dstate = .data →
    d.idx.toNat + (b :: p).length = d.len.toNat →
    decRun d (b :: p ++ rest) = decRun { d with dstate := .crc1, idx := d.len, pay := d.pay ++ b :: p } rest := by
  induction p with
  | nil =>
    intro b rest d hs hl
    have hlast : d.idx.toNat + 1 = d.len.toNat := hl
    have hidx : d.idx + 1#8 = d.len := by bv_omega
    rw [List.cons_append, decRun_cons_quiet _ (decStep_dataLast b hs hlast), Dec.dataLast, hidx]
    rfl
  | cons b' p ih =>
    intro b rest d hs hl
    simp only [List.length_cons] at hl
    have hmore : d.idx.toNat + 1 ≠ d.len.toNat := by omega
    have hidx : (d.idx + 1#8).toNat = d.idx.toNat + 1 := by bv_omega
    have hleft : (d.dataMore b).idx.toNat + (b' :: p).length = (d.dataMore b).len.toNat := by
      simp only [Dec.dataMore, hidx, List.length_cons]
      omega
    rw [List.cons_append, decRun_cons_quiet _ (decStep_dataMore b hs hmore), ih b' rest (d.dataMore b) rfl hleft]
    simp [Dec.dataMore]

/-- From LEN with an empty payload, the length byte and the payload lead to CRC_1. With LENGTH = 0 the decoder does not
pass through DATA (R76). -/
theorem decRun_length_payload {m : Message} (hm : m.wf = true) (rest : List Byte) {d : Dec} (hs : d.dstate = .len)
    (hp : d.pay = []) :
    decRun d (m.length :: (m.payload ++ rest)) =
      decRun { dstate := .crc1, cmd := d.cmd, len := m.length, idx := m.length, pay := m.payload } rest := by
  obtain ⟨c, l, p⟩ := m
  have hl : p.length = l.toNat := (wf_iff _).mp hm
  cases p with
  | nil =>
    obtain rfl : l = 0x00#8 := BitVec.eq_of_toNat_eq hl.symm
    rw [decRun_cons_quiet _ (decStep_lenZ hs), Dec.lenZ, hp]
    rfl
  | cons b p =>
    have hnz : l ≠ 0x00#8 := by rintro rfl; simp at hl
    rw [decRun_cons_quiet _ (decStep_lenNz hs hnz), decRun_payload p b rest _ rfl (by simpa [Dec.lenNz] using hl)]
    rfl

/-- From SYNC_1 with an empty payload, a frame without trailer byte 1 leaves the decoder holding its message. -/
theorem decRun_frame_but_last {m : Message} (hm : m.wf = true) (t0 : Byte) (rest : List Byte) {d : Dec}
    (hs : d.dstate = .sync1) (hp : d.pay = []) :
    decRun d (Config.sync :: Config.sync :: m.command :: m.length :: (m.payload ++ t0 :: rest)) =
      decRun (Dec.holding m) rest := by
  rw [decRun_cons_quiet _ (decStep_s1Hit hs), decRun_cons_quiet _ (decStep_s2Hit rfl),
    decRun_cons_quiet _ (decStep_cmd _ rfl),
    decRun_length_payload (d := d.s1Hit.s2Hit.takeCmd m.command) hm _ rfl hp, decRun_cons_quiet _ (decStep_crc1 t0 rfl)]
  rfl

/-- From SYNC_1 with an empty payload, a frame emits its message at trailer byte 1 and leaves a decoder that hunts with a
fresh message. -/
theorem decRun_frame {m : Message} (hm : m.wf = true) (t0 t1 : Byte) (rest : List Byte) {d : Dec}
    (hs : d.dstate = .sync1) (hp : d.pay = []) :
    decRun d (Config.sync :: Config.sync :: m.command :: m.length :: (m.payload ++ t0 :: t1 :: rest)) =
      ((decRun { Dec.init with idx := m.length } rest).1, m :: (decRun { Dec.init with idx := m.length } rest).2) := by
  rw [decRun_frame_but_last hm t0 _ hs hp, decRun_cons_emit _ (decStep_crc2 t1 rfl), holding_completed, holding_crc2]

/-! ## Encoded frames -/

/-- On well-formed messages the pseudocode of spec/41_encoder.md R100 writes the layout of spec/30_encoding.md R50. -/
theorem encodeMsg_eq_frameOf {m : Message} (hm : m.wf = true) : encodeMsg m = frameOf m := by
  have hl : m.payload.length = m.length.toNat := (wf_iff m).mp hm
  have hpay : (if 0 < m.length.toNat then m.payload else []) = m.payload := by
    rw [← hl]
    cases m.payload <;> simp
  rw [encodeMsg, frameOf, hpay]

/-- The round trip (R84), with whatever follows the frame. -/
theorem decRun_encodeMsg_append {m : Message} (hm : m.wf = true) (rest : List Byte) {d : Dec} (hs : d.dstate = .sync1)
    (hp : d.pay = []) :
    decRun d (encodeMsg m ++ rest) =
      ((decRun { Dec.init with idx := m.length } rest).1, m :: (decRun { Dec.init with idx := m.length } rest).2) := by
  rw [encodeMsg_eq_frameOf hm, ← decRun_frame hm Config.trailerFill Config.trailerFill rest hs hp]
  simp [frameOf]

/-- The round trip of one frame (R84). -/
theorem decRun_encodeMsg {m : Message} (hm : m.wf = true) {d : Dec} (hs : d.dstate = .sync1) (hp : d.pay = []) :
    decRun d (encodeMsg m) = ({ Dec.init with idx := m.length }, [m]) := by
  simpa [decRun] using decRun_encodeMsg_append hm [] hs hp

/-- No message is emitted before the last byte of a frame (R84). -/
theorem decRun_encodeMsg_dropLast {m : Message} (hm : m.wf = true) {d : Dec} (hs : d.dstate = .sync1) (hp : d.pay = []) :
    decRun d (encodeMsg m).dropLast = (Dec.holding m, []) := by
  have hcut : encodeMsg m = (Config.sync :: Config.sync :: m.command :: m.length ::
      (m.payload ++ [Config.trailerFill])) ++ [Config.trailerFill] := by
    simp [encodeMsg_eq_frameOf hm, frameOf]
  rw [hcut, List.dropLast_concat, decRun_frame_but_last hm _ [] hs hp]
  rfl

/-- n frames decode to their n messages (R84): each leaves a decoder that hunts with a fresh message. -/
theorem decRun_flatMap_encodeMsg (ms : List Message) : ∀ d : Dec, (∀ m ∈ ms, m.wf = true) → d.dstate = .sync1 →
    d.pay = [] → (decRun d (ms.flatMap encodeMsg)).2 = ms := by
  induction ms with
  | nil => intros; rfl
  | cons m ms ih =>
    intro d hms hs hp
    rw [List.forall_mem_cons] at hms
    obtain ⟨hm, hms⟩ := hms
    rw [List.flatMap_cons, decRun_encodeMsg_append hm _ hs hp, ih _ hms rfl rfl]

/-- A hunting decoder that meets R17 has an empty payload. -/
theorem pay_nil_of_inv_sync1 {d : Dec} (hs : d.dstate = .sync1) (hd : d.Inv) : d.pay = [] := by
  simp only [Dec.Inv, hs] at hd
  exact hd.2.2

/-- Settles O13, by induction on the payload (decRun_payload) and on the list of frames (decRun_flatMap_encodeMsg). -/
theorem encodedFramesDecodeToTheirMessages : Obligations.EncodedFramesDecodeToTheirMessages := by
  refine ⟨fun m hm => ?_, fun m hm => ?_, fun m d hm hs hd => ?_, fun ms hms => ?_⟩
  · exact decRun_encodeMsg hm rfl rfl
  · rw [decRun_encodeMsg_dropLast hm rfl rfl]
  · exact decRun_encodeMsg hm hs (pay_nil_of_inv_sync1 hs hd)
  · exact decRun_flatMap_encodeMsg ms _ hms rfl rfl

/-- Settles O16: the trace arc by arc, D.LEN.Z leading past DATA; the message by decRun_frame with any trailer. -/
theorem lengthZeroSkipsData : Obligations.LengthZeroSkipsData := by
  intro c t0 t1
  constructor
  · rw [decTrace_cons _ (decStep_s1Hit rfl), decTrace_cons _ (decStep_s2Hit rfl), decTrace_cons _ (decStep_cmd c rfl),
      decTrace_cons _ (decStep_lenZ rfl), decTrace_cons _ (decStep_crc1 t0 rfl), decTrace_cons _ (decStep_crc2 t1 rfl)]
    rfl
  · have hm : Message.wf { command := c, length := 0x00#8, payload := [] } = true := rfl
    exact congrArg Prod.snd (decRun_frame hm t0 t1 [] (d := Dec.init) rfl rfl)

end Sys2Proof.Machine
end

section
/-! PROOFS. T.TX.DRAIN on a count that txq holds (spec/42_transport.md R128). -/

namespace Sys2Proof.Machine

/-- A drain of at least one byte and at most those of txq is enabled, and is State.drain. -/
theorem exec_tTxDrain_enabled {s : State} {k : Nat} (hpos : 1 ≤ k) (hle : k ≤ s.txq.length) :
    exec (.tTxDrain k) s = .next (s.drain k) := by
  have hne : k ≠ 0 := by omega
  simp only [exec, execTTxDrain, if_neg hne, if_pos hle]

/-- Settles O38: the count is neither refused nor waited on, and State.drain is the state that R128 names. -/
theorem drainMovesTheHeadToTheWire : Obligations.DrainMovesTheHeadToTheWire :=
  fun _ _ hpos hle => exec_tTxDrain_enabled hpos hle

end Sys2Proof.Machine
end

section
/-! PROOFS. The decoder over sequences of bytes: chunks, the table of R17, the transition graph, and what an accepted
preamble commits the decoder to (spec/40_decoder.md R82, R83, R85 to R89). -/

namespace Sys2Proof.Machine

/-! ## Concatenation (R82) -/

theorem decRun_append (d : Dec) (xs ys : List Byte) :
    decRun d (xs ++ ys) =
      ((decRun (decRun d xs).1 ys).1, (decRun d xs).2 ++ (decRun (decRun d xs).1 ys).2) := by
  induction xs generalizing d with
  | nil => rfl
  | cons b xs ih => simp [decRun, ih]

/-- The fold over chunks, with messages already emitted. -/
theorem foldl_decRun (chunks : List (List Byte)) : ∀ (d : Dec) (ms : List Message),
    chunks.foldl (fun r c => ((decRun r.1 c).1, r.2 ++ (decRun r.1 c).2)) (d, ms) =
      ((decRun d chunks.flatten).1, ms ++ (decRun d chunks.flatten).2) := by
  induction chunks with
  | nil => intro d ms; simp [decRun]
  | cons c cs ih => intro d ms; simp [ih, decRun_append]

/-- Settles O11, by induction on the first part and on the list of chunks. -/
theorem chunkingIsInvisible : Obligations.ChunkingIsInvisible :=
  ⟨decRun_append, fun d chunks => by rw [foldl_decRun, List.nil_append]⟩

/-! ## One case per arc -/

/-- To show something of what a byte does to the decoder, show it of each arc where that arc is selected (R58). -/
theorem decStep_rule {d : Dec} {b : Byte} {P : Dec × Option Message → Prop}
    (s1Hit : d.dstate = .sync1 → b = Config.sync → P (d.s1Hit, none))
    (s1Miss : d.dstate = .sync1 → b ≠ Config.sync → P (d.s1Miss, none))
    (s2Hit : d.dstate = .sync2 → b = Config.sync → P (d.s2Hit, none))
    (s2Miss : d.dstate = .sync2 → b ≠ Config.sync → P (d.s2Miss, none))
    (takeCmd : d.dstate = .cmd → P (d.takeCmd b, none))
    (lenZ : d.dstate = .len → b = 0x00#8 → P (d.lenZ, none))
    (lenNz : d.dstate = .len → b ≠ 0x00#8 → P (d.lenNz b, none))
    (dataMore : d.dstate = .data → d.idx.toNat + 1 ≠ d.len.toNat → P (d.dataMore b, none))
    (dataLast : d.dstate = .data → d.idx.toNat + 1 = d.len.toNat → P (d.dataLast b, none))
    (crc1 : d.dstate = .crc1 → P (d.crc1, none))
    (crc2 : d.dstate = .crc2 → P (d.crc2, some d.completed)) : P (decStep d b) := by
  rcases decStep_cases d b with ⟨h, h', e⟩ | ⟨h, h', e⟩ | ⟨h, h', e⟩ | ⟨h, h', e⟩ | ⟨h, e⟩ | ⟨h, h', e⟩ | ⟨h, h', e⟩ |
    ⟨h, h', e⟩ | ⟨h, h', e⟩ | ⟨h, e⟩ | ⟨h, e⟩ <;> rw [e]
  exacts [s1Hit h h', s1Miss h h', s2Hit h h', s2Miss h h', takeCmd h, lenZ h h', lenNz h h', dataMore h h',
    dataLast h h', crc1 h, crc2 h]

/-! ## The table of R17 -/

/-- In a DATA state that is not at its last byte the count does not wrap. -/
theorem idx_succ_toNat {d : Dec} (h : d.idx.toNat < d.len.toNat) : (d.idx + 1#8).toNat = d.idx.toNat + 1 := by bv_omega

/-- Every arc keeps the table. -/
theorem decStep_inv {d : Dec} (b : Byte) (h : d.Inv) : (decStep d b).1.Inv := by
  unfold Dec.Inv at h
  apply decStep_rule (P := fun r => r.1.Inv) <;> intro hs <;> simp only [hs] at h
  case s1Hit | s1Miss | s2Hit | s2Miss => exact fun _ => h
  case takeCmd => exact h.2
  case lenZ => exact fun _ => ⟨congrArg List.length h.2, rfl⟩
  case lenNz =>
    intro hb
    exact ⟨rfl, Nat.pos_of_ne_zero fun h0 => hb (BitVec.eq_of_toNat_eq h0)⟩
  case dataMore =>
    intro hi
    have hidx := idx_succ_toNat h.2
    refine ⟨?_, ?_⟩ <;> simp only [Dec.dataMore, List.length_append, List.length_singleton] <;> omega
  case dataLast =>
    intro hi
    have hidx := idx_succ_toNat h.2
    refine ⟨?_, BitVec.eq_of_toNat_eq ?_⟩ <;>
      simp only [Dec.dataLast, List.length_append, List.length_singleton] <;> omega
  case crc1 => exact h
  case crc2 => exact ⟨rfl, rfl, rfl⟩

/-- A message is emitted in CRC_2 only, and is what the registers hold. -/
theorem decStep_emits {d : Dec} {b : Byte} {m : Message} :
    (decStep d b).2 = some m → d.dstate = .crc2 ∧ m = d.completed := by
  apply decStep_rule (P := fun r => r.2 = some m → d.dstate = .crc2 ∧ m = d.completed)
  case crc2 => exact fun hs hm => ⟨hs, (Option.some.inj hm).symm⟩
  all_goals intros; contradiction

/-- An emitted message has the length that its LENGTH field says. -/
theorem decStep_wf {d : Dec} {b : Byte} {m : Message} (h : d.Inv) (hm : (decStep d b).2 = some m) : m.wf = true := by
  obtain ⟨hs, rfl⟩ := decStep_emits hm
  simp only [Dec.Inv, hs] at h
  exact (wf_iff _).2 h.1

/-- Settles O12, arc by arc. -/
theorem decoderKeepsItsTable : Obligations.DecoderKeepsItsTable :=
  fun _ b h => ⟨decStep_inv b h, fun _ hm => decStep_wf h hm⟩

theorem decRun_inv (bs : List Byte) : ∀ {d : Dec}, d.Inv → (decRun d bs).1.Inv := by
  induction bs with
  | nil => exact id
  | cons b bs ih => exact fun h => ih (decStep_inv b h)

theorem decRun_wf (bs : List Byte) : ∀ {d : Dec}, d.Inv → ∀ m ∈ (decRun d bs).2, m.wf = true := by
  induction bs with
  | nil => intro d _ m hm; cases hm
  | cons b bs ih =>
    intro d h m hm
    rcases List.mem_append.1 hm with hm | hm
    · exact decStep_wf h (Option.mem_toList.1 hm)
    · exact ih (decStep_inv b h) m hm

theorem init_inv : Dec.init.Inv := ⟨rfl, rfl, rfl⟩

/-- A decoder in SYNC_1 that meets the table is init up to idx. -/
theorem eq_init_of_sync1 {d : Dec} (h : d.Inv) (hs : d.dstate = .sync1) : d = { Dec.init with idx := d.idx } := by
  obtain ⟨ds, c, l, i, p⟩ := d
  obtain rfl : ds = .sync1 := hs
  obtain ⟨rfl, rfl, rfl⟩ := h
  rfl

/-! ## The transition graph (R88) -/

@[simp] theorem s1Hit_dstate (d : Dec) : d.s1Hit.dstate = .sync2 := rfl
@[simp] theorem s1Miss_dstate (d : Dec) : d.s1Miss.dstate = .sync1 := rfl
@[simp] theorem s2Hit_dstate (d : Dec) : d.s2Hit.dstate = .cmd := rfl
@[simp] theorem s2Miss_dstate (d : Dec) : d.s2Miss.dstate = .sync1 := rfl
@[simp] theorem takeCmd_dstate (d : Dec) (b : Byte) : (d.takeCmd b).dstate = .len := rfl
@[simp] theorem lenZ_dstate (d : Dec) : d.lenZ.dstate = .crc1 := rfl
@[simp] theorem lenNz_dstate (d : Dec) (b : Byte) : (d.lenNz b).dstate = .data := rfl
@[simp] theorem dataMore_dstate (d : Dec) (b : Byte) : (d.dataMore b).dstate = .data := rfl
@[simp] theorem dataLast_dstate (d : Dec) (b : Byte) : (d.dataLast b).dstate = .crc1 := rfl
@[simp] theorem crc1_dstate (d : Dec) : d.crc1.dstate = .crc2 := rfl
@[simp] theorem crc2_dstate (d : Dec) : d.crc2.dstate = .sync1 := rfl

theorem decStep_mem_successors (d : Dec) (b : Byte) : (decStep d b).1.dstate ∈ successors d.dstate := by
  apply decStep_rule (P := fun r => r.1.dstate ∈ successors d.dstate) <;> intro hs <;> simp [hs, successors]

/-- A register value of each state that meets the table, from which a suitable byte takes each edge; in DATA, one that
is at its last byte or not as the successor asks. -/
def edgeFrom (x y : DState) : Dec :=
  match x, y with
  | .data, .data => { dstate := .data, cmd := 0x00#8, len := 0x02#8, idx := 0x00#8, pay := [] }
  | .data, _ => { dstate := .data, cmd := 0x00#8, len := 0x01#8, idx := 0x00#8, pay := [] }
  | x, _ => { Dec.init with dstate := x }

/-- The byte that takes the edge from edgeFrom x y. -/
def edgeByte (x y : DState) : Byte :=
  match x, y with
  | .sync1, .sync2 => Config.sync
  | .sync2, .cmd => Config.sync
  | .len, .data => 0x01#8
  | _, _ => 0x00#8

theorem edgeFrom_inv (x y : DState) : (edgeFrom x y).Inv := by
  cases x
  case data => cases y <;> exact ⟨rfl, by decide⟩
  case len | crc1 | crc2 => exact ⟨rfl, rfl⟩
  all_goals exact ⟨rfl, rfl, rfl⟩

theorem edgeFrom_dstate (x y : DState) : (edgeFrom x y).dstate = x := by cases x <;> cases y <;> rfl

theorem edge_taken (x y : DState) : y ∈ successors x → (decStep (edgeFrom x y) (edgeByte x y)).1.dstate = y := by
  cases x <;> cases y <;> decide

/-- Settles O19, arc by arc and edge by edge. -/
theorem transitionGraphIsExact : Obligations.TransitionGraphIsExact :=
  ⟨decStep_mem_successors, fun x y h => 
    ⟨edgeFrom x y, edgeByte x y, edgeFrom_inv x y, edgeFrom_dstate x y, edge_taken x y h⟩⟩

/-! ## Inside a frame -/

/-- The preamble has been accepted, and the message is not yet complete. -/
def Dec.inFrame (d : Dec) : Prop := d.dstate ≠ .sync1 ∧ d.dstate ≠ .sync2

/-- Only a completed message takes the decoder out of a frame (R89). -/
theorem decStep_inFrame {d : Dec} {b : Byte} (h : d.inFrame) : (decStep d b).2 = none → (decStep d b).1.inFrame := by
  apply decStep_rule (P := fun r => r.2 = none → r.1.inFrame) <;> intro hs
  case s1Hit | s1Miss => exact absurd hs h.1
  case s2Hit | s2Miss => exact absurd hs h.2
  case crc2 => intro he; cases he
  all_goals intros; simp [Dec.inFrame]

/-- A run that emits nothing stays in the frame, at its end and on the way. -/
theorem decRun_inFrame (bs : List Byte) : ∀ {d : Dec}, d.inFrame → (decRun d bs).2 = [] →
    (decRun d bs).1.inFrame ∧ DState.sync1 ∉ decTrace d bs ∧ DState.sync2 ∉ decTrace d bs := by
  induction bs with
  | nil => exact fun h _ => ⟨h, List.not_mem_nil, List.not_mem_nil⟩
  | cons b bs ih =>
    intro d h he
    obtain ⟨he1, he2⟩ : (decStep d b).2 = none ∧ (decRun (decStep d b).1 bs).2 = [] := by
      simpa [decRun, Option.toList_eq_nil_iff] using he
    have hin := decStep_inFrame h he1
    obtain ⟨hr, h1, h2⟩ := ih hin he2
    exact ⟨hr, List.not_mem_cons_of_ne_of_not_mem hin.1.symm h1, List.not_mem_cons_of_ne_of_not_mem hin.2.symm h2⟩

/-- From CMD with an empty payload, the frame's rest but trailer byte 1 leaves the decoder holding its message. -/
theorem decRun_from_cmd {m : Message} (hm : m.wf = true) (t0 : Byte) (rest : List Byte) {d : Dec}
    (hs : d.dstate = .cmd) (hp : d.pay = []) :
    decRun d (m.command :: m.length :: (m.payload ++ t0 :: rest)) = decRun (Dec.holding m) rest := by
  rw [decRun_cons_quiet _ (decStep_cmd _ hs), decRun_length_payload (d := d.takeCmd m.command) hm _ rfl hp,
    decRun_cons_quiet _ (decStep_crc1 t0 rfl)]
  rfl

/-- Settles O21: the bytes up to trailer byte 0 emit nothing (decRun_from_cmd), so they stay in the frame. -/
theorem noResynchronisationInsideAFrame : Obligations.NoResynchronisationInsideAFrame := by
  intro d c l t0 t1 p hs hd hl
  have hp : d.pay = [] := by
    simp only [Dec.Inv, hs] at hd
    exact hd.2.2
  have hm : Message.wf { command := c, length := l, payload := p } = true := (wf_iff _).2 hl
  have hin : d.inFrame := by simp [Dec.inFrame, hs]
  refine ⟨?_, ?_⟩
  · have hrun := decRun_from_cmd hm t0 [t1] hs hp
    rw [decRun_cons_emit _ (decStep_crc2 t1 rfl), holding_completed, holding_crc2] at hrun
    simpa [decRun] using hrun
  · have hquiet : (decRun d ([c, l] ++ p ++ [t0])).2 = [] := by
      simpa [decRun] using congrArg Prod.snd (decRun_from_cmd hm t0 [] hs hp)
    exact (decRun_inFrame _ hin hquiet).2

end Sys2Proof.Machine
end

section
/-! PROOFS. How the decoder hunts: transparent prefixes, an extra SYNC byte, the way back to SYNC_1 and its bounds, and
the stale index (spec/40_decoder.md R85, R86, R88). -/

namespace Sys2Proof.Machine

/-! ## Transparent prefixes (R85) -/

theorem decRun_init_noise {b : Byte} (hb : b ≠ Config.sync) (bs : List Byte) :
    decRun Dec.init (b :: bs) = decRun Dec.init bs :=
  decRun_cons_quiet bs (decStep_s1Miss rfl hb)

theorem decRun_init_lone {b : Byte} (hb : b ≠ Config.sync) (bs : List Byte) :
    decRun Dec.init (Config.sync :: b :: bs) = decRun Dec.init bs := by
  rw [decRun_cons_quiet _ (decStep_s1Hit rfl), decRun_cons_quiet bs (decStep_s2Miss rfl hb)]
  rfl

theorem decRun_init_preamble (bs : List Byte) :
    decRun Dec.init (Config.sync :: Config.sync :: bs) = decRun { Dec.init with dstate := .cmd } bs := by
  rw [decRun_cons_quiet _ (decStep_s1Hit rfl), decRun_cons_quiet bs (decStep_s2Hit rfl)]
  rfl

/-- After a whole preamble the decoder hunts again only with a message emitted. -/
theorem not_transparent_preamble (bs : List Byte) : ¬ Transparent (Config.sync :: Config.sync :: bs) := by
  rintro ⟨hs, he⟩
  rw [decRun_init_preamble] at hs he
  have hin : Dec.inFrame { Dec.init with dstate := .cmd } := by simp [Dec.inFrame]
  exact (decRun_inFrame bs hin he).1.1 hs

theorem transparent_noise {b : Byte} (hb : b ≠ Config.sync) (bs : List Byte) :
    Transparent (b :: bs) ↔ Transparent bs := by
  rw [Transparent, decRun_init_noise hb]; rfl

theorem transparent_lone {b : Byte} (hb : b ≠ Config.sync) (bs : List Byte) :
    Transparent (Config.sync :: b :: bs) ↔ Transparent bs := by
  rw [Transparent, decRun_init_lone hb]; rfl

theorem not_transparent_sync : ¬ Transparent [Config.sync] := by unfold Transparent; decide

theorem blocks_of_transparent : ∀ p : List Byte, Transparent p → Blocks p
  | [], _ => .nil
  | b :: p, h => by
    by_cases hb : b = Config.sync
    · subst hb
      match p with
      | [] => exact absurd h not_transparent_sync
      | b' :: p =>
        by_cases hb' : b' = Config.sync
        · subst hb'
          exact absurd h (not_transparent_preamble p)
        · exact .lone hb' (blocks_of_transparent p ((transparent_lone hb' p).1 h))
    · exact .noise hb (blocks_of_transparent p ((transparent_noise hb p).1 h))

theorem transparent_of_blocks {p : List Byte} (h : Blocks p) : Transparent p := by
  induction h with
  | nil => exact ⟨rfl, rfl⟩
  | noise hb _ ih => exact (transparent_noise hb _).2 ih
  | lone hb _ ih => exact (transparent_lone hb _).2 ih

/-- A transparent beginning leaves a decoder that hunts with an empty payload, which receives the next frame whole. -/
theorem decRun_transparent_encodeMsg {p : List Byte} {m : Message} (hp : Transparent p) (hm : m.wf = true) :
    (decRun Dec.init (p ++ encodeMsg m)).2 = [m] := by
  obtain ⟨hs, he⟩ := hp
  have hpay := pay_nil_of_inv_sync1 hs (decRun_inv p init_inv)
  rw [decRun_append, he, decRun_encodeMsg hm hs hpay]
  rfl

/-- Settles O14: by the round trip after the prefix; and, block by block, because a whole preamble cannot be undone
(not_transparent_preamble). -/
theorem transparentPrefixesKeepTheFrame : Obligations.TransparentPrefixesKeepTheFrame :=
  ⟨fun _ _ hp hm => decRun_transparent_encodeMsg hp hm, fun p => ⟨blocks_of_transparent p, transparent_of_blocks⟩⟩

/-- Settles O15: the second SYNC of the frame is taken as the command, and its command as the length. -/
theorem anExtraSyncShiftsTheFrame : Obligations.AnExtraSyncShiftsTheFrame := by
  intro m hm
  have hrun : decRun Dec.init (Config.sync :: encodeMsg m) =
      decRun { Dec.init with dstate := .len, cmd := Config.sync }
        (m.command :: m.length :: (m.payload ++ [Config.trailerFill, Config.trailerFill])) := by
    rw [encodeMsg_eq_frameOf hm]
    exact (decRun_init_preamble _).trans (decRun_cons_quiet _ (decStep_cmd _ rfl))
  rw [hrun]
  exact ⟨fun hc => decRun_cons_quiet _ (decStep_lenNz rfl hc), fun hc => by
    rw [hc]; exact decRun_cons_quiet _ (decStep_lenZ rfl)⟩

/-! ## The way back to SYNC_1 (R88) -/

/-- The decoder has the length of the frame it reads, and with it the number of bytes still to come. -/
abbrev Dec.counting (d : Dec) : Prop := d.dstate = .data ∨ d.dstate = .crc1 ∨ d.dstate = .crc2

/-- A decoder that counts comes one byte closer to SYNC_1 with each byte, and there exactly where the bound is 1. -/
theorem decStep_counting {d : Dec} (b : Byte) (h : d.Inv) :
    d.counting →
      ((decStep d b).1.dstate = .sync1 ∧ d.bound = 1) ∨
      ((decStep d b).1.counting ∧ (decStep d b).1.bound + 1 = d.bound) := by
  unfold Dec.Inv at h
  apply decStep_rule (P := fun r => d.counting →
    (r.1.dstate = .sync1 ∧ d.bound = 1) ∨ (r.1.counting ∧ r.1.bound + 1 = d.bound)) <;> intro hs <;>
    simp only [hs] at h
  case dataMore =>
    have hidx := idx_succ_toNat h.2
    intro hi _
    refine .inr ⟨.inl rfl, ?_⟩
    simp only [Dec.bound, hs, Dec.dataMore, hidx]
    omega
  case dataLast =>
    intro hi _
    refine .inr ⟨.inr (.inl rfl), ?_⟩
    simp only [Dec.bound, hs, dataLast_dstate]
    omega
  case crc1 => exact fun _ => .inr ⟨.inr (.inr rfl), by simp [Dec.bound, hs]⟩
  case crc2 => exact fun _ => .inl ⟨rfl, by simp [Dec.bound, hs]⟩
  all_goals intros; simp_all [Dec.counting]

/-- Outside SYNC_1 every byte leads to SYNC_1 or brings the bound down. -/
theorem decStep_bound {d : Dec} (b : Byte) (h : d.Inv) (hn : d.dstate ≠ .sync1) :
    (decStep d b).1.dstate = .sync1 ∨ (decStep d b).1.bound + 1 ≤ d.bound := by
  by_cases hc : d.counting
  · exact (decStep_counting b h hc).imp And.left fun h => h.2.le
  apply decStep_rule (P := fun r => r.1.dstate = .sync1 ∨ r.1.bound + 1 ≤ d.bound) <;> intro hs
  case s1Hit | s1Miss => exact absurd hs hn
  case s2Miss => exact fun _ => .inl rfl
  case s2Hit | takeCmd | lenZ => simp [Dec.bound, hs]
  case lenNz =>
    have := b.isLt
    intro _
    simp only [Dec.bound, hs, Dec.lenNz, BitVec.toNat_ofNat]
    omega
  all_goals simp [Dec.counting, hs] at hc

theorem sync1_mem_decTrace (bs : List Byte) : ∀ {d : Dec}, d.Inv → d.dstate ≠ .sync1 → d.bound ≤ bs.length →
    DState.sync1 ∈ decTrace d bs := by
  induction bs with
  | nil =>
    intro d _ hn hb
    cases hs : d.dstate <;> simp [Dec.bound, hs] at hb hn
  | cons b bs ih =>
    intro d h hn hb
    rw [List.length_cons] at hb
    by_cases hs : (decStep d b).1.dstate = .sync1
    · exact List.mem_cons.2 (.inl hs.symm)
    · have := (decStep_bound b h hn).resolve_left hs
      exact List.mem_cons_of_mem _ (ih (decStep_inv b h) hs (by omega))

theorem sync1_not_mem_decTrace (bs : List Byte) : ∀ {d : Dec}, d.Inv → d.counting → bs.length < d.bound →
    DState.sync1 ∉ decTrace d bs := by
  induction bs with
  | nil => intros; exact List.not_mem_nil
  | cons b bs ih =>
    intro d h hc hb
    rw [List.length_cons] at hb
    obtain ⟨-, h1⟩ | ⟨hc', h1⟩ := decStep_counting b h hc
    · omega
    · have hs : DState.sync1 ≠ (decStep d b).1.dstate := by rintro e; simp [Dec.counting, ← e] at hc'
      exact List.not_mem_cons_of_ne_of_not_mem hs (ih (decStep_inv b h) hc' (by omega))

/-- The longest rest of a frame from LEN, all but its last byte: LENGTH = 255 and 256 more bytes. -/
def longestFromLen : List Byte := 0xFF#8 :: List.replicate 256 0x00#8

theorem length_longestFromLen : longestFromLen.length = 257 := by
  rw [longestFromLen, List.length_cons, List.length_replicate]

theorem sync1_not_mem_longestFromLen {d : Dec} (hs : d.dstate = .len) : DState.sync1 ∉ decTrace d longestFromLen := by
  rw [longestFromLen, decTrace_cons _ (decStep_lenNz hs (by decide))]
  refine List.not_mem_cons_of_ne_of_not_mem (by simp) (sync1_not_mem_decTrace _ ?_ (.inl rfl) ?_)
  · exact ⟨rfl, by simp [Dec.lenNz]⟩
  · rw [List.length_replicate]
    simp [Dec.bound, Dec.lenNz]

theorem sync1_not_mem_longestFromCmd {d : Dec} (hs : d.dstate = .cmd) :
    DState.sync1 ∉ decTrace d (0x00#8 :: longestFromLen) := by
  rw [decTrace_cons _ (decStep_cmd _ hs)]
  exact List.not_mem_cons_of_ne_of_not_mem (by simp) (sync1_not_mem_longestFromLen rfl)

theorem sync1_not_mem_longestFromSync2 {d : Dec} (hs : d.dstate = .sync2) :
    DState.sync1 ∉ decTrace d (Config.sync :: 0x00#8 :: longestFromLen) := by
  rw [decTrace_cons _ (decStep_s2Hit hs)]
  exact List.not_mem_cons_of_ne_of_not_mem (by simp) (sync1_not_mem_longestFromCmd rfl)

/-- Settles O17: the bound falls with every byte (decStep_bound), by exactly 1 once the length is known
(decStep_counting), and before that the longest frame is the input that takes longest. -/
theorem theDecoderHuntsAgainWithinTheBound : Obligations.TheDecoderHuntsAgainWithinTheBound := by
  refine ⟨fun d bs h hn hb => sync1_mem_decTrace bs h hn hb.ge,
    fun d bs h hc hb => sync1_not_mem_decTrace bs h hc hb, fun d _ hd => ?_⟩
  rcases hd with hs | hs | hs
  · exact ⟨_, by simp [Dec.bound, hs, length_longestFromLen], sync1_not_mem_longestFromSync2 hs⟩
  · exact ⟨_, by simp [Dec.bound, hs, length_longestFromLen], sync1_not_mem_longestFromCmd hs⟩
  · exact ⟨_, by simp [Dec.bound, hs, length_longestFromLen], sync1_not_mem_longestFromLen hs⟩

/-- A state that a run visits is where some part of the input leads. -/
theorem exists_decRun_of_mem_decTrace {x : DState} (bs : List Byte) : ∀ {d : Dec}, x ∈ decTrace d bs →
    ∃ as, (decRun d as).1.dstate = x := by
  induction bs with
  | nil => exact fun h => nomatch h
  | cons b bs ih =>
    intro d h
    rcases List.mem_cons.1 h with rfl | h
    · exact ⟨[b], rfl⟩
    · obtain ⟨as, ha⟩ := ih h
      exact ⟨b :: as, ha⟩

/-- Settles O18: enough bytes pass through SYNC_1 (R88 (c)), where the table leaves only idx open. -/
theorem everyStateLeadsBackToInit : Obligations.EveryStateLeadsBackToInit := by
  intro d h
  obtain ⟨bs, hs⟩ : ∃ bs, (decRun d bs).1.dstate = .sync1 := by
    by_cases hs : d.dstate = .sync1
    · exact ⟨[], hs⟩
    · exact exists_decRun_of_mem_decTrace _
        (sync1_mem_decTrace (List.replicate d.bound 0x00#8) h hs List.length_replicate.ge)
  exact ⟨bs, _, eq_init_of_sync1 (decRun_inv bs h) hs⟩

/-! ## The stale index (R86) -/

/-- In SYNC_1, SYNC_2, CMD and LEN idx holds a value that nothing reads. -/
abbrev Dec.staleIdx (d : Dec) : Prop := d.dstate = .sync1 ∨ d.dstate = .sync2 ∨ d.dstate = .cmd ∨ d.dstate = .len

/-- A stale idx is carried along by a byte, which emits nothing, or is overwritten by a LEN arc. -/
theorem decStep_staleIdx {d : Dec} (i b : Byte) (h : d.staleIdx) :
    (decStep { d with idx := i } b = ({ (decStep d b).1 with idx := i }, none) ∧ (decStep d b).2 = none ∧
      (decStep d b).1.staleIdx) ∨
    decStep { d with idx := i } b = decStep d b := by
  apply decStep_rule (d := d) (b := b) (P := fun r =>
    (decStep { d with idx := i } b = ({ r.1 with idx := i }, none) ∧ r.2 = none ∧ r.1.staleIdx) ∨
      decStep { d with idx := i } b = r) <;> intro hs
  case s1Hit => rintro rfl; exact .inl ⟨decStep_s1Hit hs, rfl, .inr (.inl rfl)⟩
  case s1Miss => exact fun hb => .inl ⟨decStep_s1Miss hs hb, rfl, .inl rfl⟩
  case s2Hit => rintro rfl; exact .inl ⟨decStep_s2Hit hs, rfl, .inr (.inr (.inl rfl))⟩
  case s2Miss => exact fun hb => .inl ⟨decStep_s2Miss hs hb, rfl, .inl rfl⟩
  case takeCmd => exact .inl ⟨decStep_cmd b hs, rfl, .inr (.inr (.inr rfl))⟩
  case lenZ => rintro rfl; exact .inr (decStep_lenZ hs)
  case lenNz => exact fun hb => .inr (decStep_lenNz hs hb)
  all_goals simp [Dec.staleIdx, hs] at h

theorem decRun_staleIdx (i : Byte) (bs : List Byte) : ∀ {d : Dec}, d.staleIdx →
    (decRun { d with idx := i } bs).2 = (decRun d bs).2 ∧
    (∃ k, (decRun { d with idx := i } bs).1 = { (decRun d bs).1 with idx := k }) ∧
    (DState.data ∈ decTrace d bs ∨ DState.crc1 ∈ decTrace d bs →
      (decRun { d with idx := i } bs).1 = (decRun d bs).1) := by
  induction bs with
  | nil => intro d _; exact ⟨rfl, ⟨i, rfl⟩, fun h => by simp [decTrace] at h⟩
  | cons b bs ih =>
    intro d h
    rcases decStep_staleIdx i b h with ⟨e, he, hs⟩ | e
    · have hdata : DState.data ≠ (decStep d b).1.dstate := by rintro e; simp [Dec.staleIdx, ← e] at hs
      have hcrc1 : DState.crc1 ≠ (decStep d b).1.dstate := by rintro e; simp [Dec.staleIdx, ← e] at hs
      simpa [decRun, decTrace, e, he, hdata, hcrc1] using ih hs
    · rw [decRun, e]
      exact ⟨rfl, ⟨_, rfl⟩, fun _ => rfl⟩

/-- Settles O20: by D.CRC2's equation, and by decStep_staleIdx along the run. -/
theorem staleIndexIsNeverSeen : Obligations.StaleIndexIsNeverSeen :=
  ⟨fun _ b hs => by rw [decStep_crc2 b hs]; rfl, fun _ i bs h => decRun_staleIdx i bs h⟩

end Sys2Proof.Machine
end

section
/-! PROOFS. Bits and operations (spec/30_encoding.md): the two directions of the round trip, the selection of arcs, and
the arcs that complete or continue a message. -/

namespace Sys2Proof.Machine

/-! ## The round trip of the bits -/

/-- Settles O27: row by row, the family CodeRoundTrip; the row with content is E.ENCODE, whose frame is read back field
by field. -/
theorem encodedOperationsDecodeBack : Obligations.EncodedOperationsDecodeBack := by
  intro i
  cases i with
  | dS1Hit => exact Laws.CodeRoundTrip.dS1Hit
  | dS1Miss b => exact Laws.CodeRoundTrip.dS1Miss b
  | dS2Hit => exact Laws.CodeRoundTrip.dS2Hit
  | dS2Miss b => exact Laws.CodeRoundTrip.dS2Miss b
  | dCmd b => exact Laws.CodeRoundTrip.dCmd b
  | dLenZ => exact Laws.CodeRoundTrip.dLenZ
  | dLenNz b => exact Laws.CodeRoundTrip.dLenNz b
  | dDataMore b => exact Laws.CodeRoundTrip.dDataMore b
  | dDataLast b => exact Laws.CodeRoundTrip.dDataLast b
  | dCrc1 b => exact Laws.CodeRoundTrip.dCrc1 b
  | dCrc2 b => exact Laws.CodeRoundTrip.dCrc2 b
  | eEncode m => exact Laws.CodeRoundTrip.eEncode m
  | tRxDeliver bs => exact Laws.CodeRoundTrip.tRxDeliver bs
  | tRxError => exact Laws.CodeRoundTrip.tRxError
  | pRxConsume => exact Laws.CodeRoundTrip.pRxConsume
  | tTxDrain k => exact Laws.CodeRoundTrip.tTxDrain k
  | hStart transportId baudRate => exact Laws.CodeRoundTrip.hStart transportId baudRate
  | hSetObs cb => exact Laws.CodeRoundTrip.hSetObs cb
  | hSend m => exact Laws.CodeRoundTrip.hSend m
  | hStop => exact Laws.CodeRoundTrip.hStop
  | cmdidFirmwareVersion => exact Laws.CodeRoundTrip.cmdidFirmwareVersion
  | cmdidHardwareVersion => exact Laws.CodeRoundTrip.cmdidHardwareVersion
  | cmdidSetTime => exact Laws.CodeRoundTrip.cmdidSetTime
  | cmdidGetTime => exact Laws.CodeRoundTrip.cmdidGetTime
  | cmdidCpuTemp => exact Laws.CodeRoundTrip.cmdidCpuTemp
  | cmdidTemperature => exact Laws.CodeRoundTrip.cmdidTemperature
  | cmdidSetLogInterval => exact Laws.CodeRoundTrip.cmdidSetLogInterval
  | cmdidGetLogInterval => exact Laws.CodeRoundTrip.cmdidGetLogInterval
  | cmdidStreamLogs => exact Laws.CodeRoundTrip.cmdidStreamLogs
  | cmdidStartNewLog => exact Laws.CodeRoundTrip.cmdidStartNewLog

/-- The arc that a slot and a byte select has that slot and byte for its bits, and meets its byte condition. -/
theorem encode_decodeRxb (slot : Slot) (b : Byte) :
    (decodeRxb slot b).wf = true ∧ encode (decodeRxb slot b) = some (.rxb slot b) := by
  cases slot <;> simp only [decodeRxb]
  case sync1 | sync2 | len => split <;> rename_i hb <;> simp [Instr.wf, encode, hb]
  all_goals exact ⟨rfl, rfl⟩

/-- A list of bytes that is read as the frame of an operation is that operation's frame, and what is left follows it. -/
theorem decodeFrame_ok {bs tail : List Byte} {i : Instr} (h : decodeFrame bs = .ok (i, tail)) :
    ∃ m, i = .eEncode m ∧ m.wf = true ∧ bs = frameOf m ++ tail := by
  unfold decodeFrame at h
  split at h
  case h_2 | h_3 => cases h
  case h_1 s0 s1 c l rest =>
    split at h
    case isFalse => cases h
    case isTrue hsync =>
      obtain ⟨rfl, rfl⟩ := hsync
      unfold decodeFrameBody at h
      split at h
      case h_2 => cases h
      case h_1 t0 t1 tail' hdrop =>
        split at h
        case isFalse => cases h
        case isTrue htrailer =>
          obtain ⟨rfl, rfl⟩ := htrailer
          cases h
          refine ⟨_, rfl, ?_, ?_⟩
          · have := congrArg List.length hdrop
            simp only [List.length_drop, List.length_cons] at this
            rw [wf_iff, List.length_take]
            exact min_eq_left (by omega)
          · have := List.take_append_drop l.toNat rest
            rw [hdrop] at this
            simp [frameOf, this]

/-- A listed COMMAND value names an operation whose bits are that value. -/
theorem decodeCmdid_ok {b : Byte} {i : Instr} (h : decodeCmdid b = .ok i) :
    i.wf = true ∧ encode i = some (.cmdid b) := by
  unfold decodeCmdid at h
  have hb : b = BitVec.ofNat 8 b.toNat := by simp
  split at h <;> rename_i hn <;> cases h
  all_goals
    rw [hn] at hb
    subst hb
    exact ⟨rfl, rfl⟩

/-- Settles O28, format by format. -/
theorem decodedBitsEncodeBack : Obligations.DecodedBitsEncodeBack := by
  intro c i h
  cases c with
  | rxb slot b => cases h; exact encode_decodeRxb slot b
  | frame bs =>
    simp only [decode] at h
    split at h <;> cases h
    rename_i hf
    obtain ⟨m, rfl, hm, rfl⟩ := decodeFrame_ok hf
    exact ⟨hm, by rw [List.append_nil]; rfl⟩
  | cmdid b => exact decodeCmdid_ok h

/-- Settles O29: fixed words, read by evaluation. -/
theorem writtenOutWordsDecode : Obligations.WrittenOutWordsDecode := by
  refine ⟨⟨rfl, rfl, rfl, rfl, rfl, rfl, rfl, rfl, rfl, rfl⟩, ?_⟩
  decide

/-! ## Which arc runs (R58) -/

/-- An arc that is not the one selected, or that its byte does not select, is refused. -/
theorem exec_refused_of_not_selected {s : State} {i : Instr} {slot : Slot} {b : Byte}
    (hi : encode i = some (.rxb slot b)) (h : s.dec.slot ≠ slot ∨ i.wf = false) :
    exec i s = .refused .arcNotSelected := by
  cases i <;> cases hi <;> rcases h with h | h <;>
    simp_all [exec, arc, Instr.wf, execDS1Hit, execDS1Miss, execDS2Hit, execDS2Miss, execDCmd, execDLenZ, execDLenNz,
      execDDataMore, execDDataLast, execDCrc1, execDCrc2]

/-- Settles O9. -/
theorem anArcOutOfPlaceIsRefused : Obligations.AnArcOutOfPlaceIsRefused :=
  fun _ _ _ _ hi h => exec_refused_of_not_selected hi h

/-- An operation with the bits of a byte that has a next state is the arc that the dispatch table selects. -/
theorem eq_decodeRxb_of_next {s t : State} {j : Instr} {slot : Slot} {b : Byte} (hj : encode j = some (.rxb slot b))
    (h : exec j s = .next t) : j = decodeRxb s.dec.slot b := by
  by_cases hp : s.dec.slot ≠ slot ∨ j.wf = false
  · rw [exec_refused_of_not_selected hj hp] at h
    cases h
  · push Not at hp
    obtain ⟨rfl, hw⟩ := hp
    exact (Except.ok.inj (encodedOperationsDecodeBack j (by simpa using hw) _ hj)).symm

/-- Settles O8: the arc that decodeRxb names runs (exec_decodeRxb), and every other is refused. -/
theorem everyByteSelectsExactlyOneArc : Obligations.EveryByteSelectsExactlyOneArc := by
  intro s b
  refine ⟨decodeRxb s.dec.slot b, ⟨⟨_, (encode_decodeRxb _ b).2⟩, _, exec_decodeRxb s b⟩, ?_⟩
  rintro j ⟨⟨slot, hj⟩, t, ht⟩
  exact eq_decodeRxb_of_next hj ht

/-- The ten listed values are performed as COMMAND bytes (R53). -/
theorem exec_cmdid {i : Instr} {b : Byte} (h : encode i = some (.cmdid b)) (s : State) :
    exec i s = exec (.dCmd b) s := by
  cases i <;> cases h <;> rfl

/-- Settles O10, with the effect in CMD from O4. -/
theorem commandValuesAreOpaque : Obligations.CommandValuesAreOpaque := by
  intro s i b hi
  refine ⟨exec_cmdid hi s, fun hs => ?_⟩
  rw [exec_cmdid hi s]
  exact (headerArcsStoreTheirByte s b).1 hs

/-- Settles O5: in DATA the comparison selects the arc, which completes no message. -/
theorem payloadArcsAppendAndCount : Obligations.PayloadArcsAppendAndCount := by
  intro s b hs
  refine ⟨fun hi => ?_, fun hi => ?_⟩
  · exact exec_of_decStep_quiet (by simp [decodeRxb, slot_dataMore hs hi]) (decStep_dataMore b hs hi)
  · exact exec_of_decStep_quiet (by simp [decodeRxb, slot_dataLast hs hi]) (decStep_dataLast b hs hi)

/-- D.CRC2 renews the registers and delivers the message that they held. -/
theorem exec_dCrc2 {s : State} (b : Byte) (hs : s.dec.dstate = .crc2) :
    exec (.dCrc2 b) s = .next (State.deliver { s with dec := s.dec.crc2 } s.dec.completed) := by
  have h := exec_decodeRxb s b
  rw [slot_crc2 hs] at h
  rw [feed_eq, decStep_crc2 b hs] at h
  exact h

/-- Settles O7: the delivery with and without an observer. -/
theorem secondTrailerByteDeliversTheMessage : Obligations.SecondTrailerByteDeliversTheMessage := by
  intro s b hs
  refine ⟨fun ho => ?_, fun f ho => ?_⟩
  · exact (exec_dCrc2 b hs).trans (congrArg _ (deliver_none (s := { s with dec := s.dec.crc2 }) ho))
  · exact (exec_dCrc2 b hs).trans (congrArg _ (deliver_some (s := { s with dec := s.dec.crc2 }) ho))

end Sys2Proof.Machine
end

section
/-! PROOFS. Each interface operation where it is enabled, where it waits and where it is refused (spec/42_transport.md,
spec/60_exceptions.md), reset, and that the receive side and the transmit side ignore each other. -/

namespace Sys2Proof.Machine

/-! ## Reset (spec/10_state.md R25) -/

/-- Settles O1. -/
theorem resetLeavesTheBlockIdle : Obligations.ResetLeavesTheBlockIdle :=
  ⟨rfl, rfl, rfl, rfl, rfl, rfl, rfl, rfl, rfl, rfl, rfl, rfl, rfl, rfl, rfl, rfl, rfl, rfl⟩

/-- Settles O2: at reset no connection is open and nothing waits. -/
theorem resetMeetsTheInvariant : Obligations.ResetMeetsTheInvariant where
  dec h := by cases h
  dead h := by cases h
  rxq := fits_rx_one (by decide)
  txq := fits_tx_frame (by decide)
  closed _ := ⟨rfl, rfl, rfl⟩
  wlock := rfl
  rderr := Nat.zero_le _
  lost h := by cases h
  stopping _ h := by cases h

/-! ## The receive side -/

theorem exec_tRxDeliver_enabled {s : State} {bs : List Byte} (hr : s.run = true) (hf : s.rxRoom bs.length = true) :
    exec (.tRxDeliver bs) s = .next { s with rxq := s.rxq ++ bs, rderr := 0 } := by
  simp [exec, execTRxDeliver, hr, hf, State.okRead]

theorem exec_tRxDeliver_waits {s : State} {bs : List Byte} (h : s.run = false ∨ s.rxRoom bs.length = false) :
    exec (.tRxDeliver bs) s = .next (s.wait (.tRxDeliver bs)) := by
  rcases h with h | h <;> simp [exec, execTRxDeliver, h]

/-- Settles O34. -/
theorem deliverAppendsTheChunk : Obligations.DeliverAppendsTheChunk :=
  fun _ _ => ⟨exec_tRxDeliver_enabled, exec_tRxDeliver_waits⟩

/-- Settles O35: the delivery of no bytes. -/
theorem emptyReadOnlyClearsTheFailureCount : Obligations.EmptyReadOnlyClearsTheFailureCount := by
  intro s hr hf
  rw [exec_tRxDeliver_enabled (bs := []) hr hf, List.append_nil]

theorem exec_tRxError_enabled {s : State} (hr : s.run = true) : exec .tRxError s = .next s.failRead := by
  simp [exec, execTRxError, hr]

theorem exec_tRxError_waits {s : State} (hr : s.run = false) : exec .tRxError s = .next (s.wait .tRxError) := by
  simp [exec, execTRxError, hr]

/-- Settles O36: below the limit the count grows and link_lost stays; at the limit it saturates and link_lost is set. -/
theorem failedReadIsCounted : Obligations.FailedReadIsCounted := by
  refine fun s => ⟨fun hr hl => ?_, fun hr hl => ?_, exec_tRxError_waits⟩ <;>
    rw [exec_tRxError_enabled hr, State.failRead, rdErrNext]
  · have hlost : linkLostNext s.linkLost (s.rderr + 1) = s.linkLost := by
      simp [linkLostNext, hl]
    rw [min_eq_left hl.le, hlost]
  · have hlost : linkLostNext s.linkLost Config.rdErrLimit = true := by simp [linkLostNext]
    rw [min_eq_right hl, hlost]

theorem exec_pRxConsume_enabled {s : State} {b : Byte} {rest : List Byte} (hr : s.run = true) (hq : s.rxq = b :: rest)
    (ho : s.obsRun = none) : exec .pRxConsume s = .next (State.feed { s with rxq := rest } b) := by
  simp [exec, execPRxConsume, State.canConsume, State.consume, hr, hq, ho]

theorem exec_pRxConsume_waits {s : State} (h : s.run = false ∨ s.rxq = [] ∨ s.obsRun ≠ none) :
    exec .pRxConsume s = .next (s.wait .pRxConsume) := by
  have hc : s.canConsume = false := by
    rcases h with h | h | h <;> simp [State.canConsume, h]
    exact fun _ _ => Option.isSome_iff_ne_none.2 h
  simp [exec, execPRxConsume, hc]

/-- Settles O37: the feed of the head, where the byte completes nothing, and the delivery without and with an
observer. -/
theorem consumeFeedsTheHeadOfTheQueue : Obligations.ConsumeFeedsTheHeadOfTheQueue := by
  refine fun s => ⟨fun b rest hr hq ho => ⟨fun hm => ?_, fun m hm hobs => ?_, fun m f hm hobs => ?_⟩,
    exec_pRxConsume_waits⟩ <;> rw [exec_pRxConsume_enabled hr hq ho, feed_eq, hm]
  · exact congrArg _ (deliver_none (s := { s with rxq := rest, dec := (decStep s.dec b).1 }) hobs)
  · exact congrArg _ (deliver_some (s := { s with rxq := rest, dec := (decStep s.dec b).1 }) hobs)

/-! ## The transmit side -/

/-- Settles O22. -/
theorem encodeReturnsTheFrame : Obligations.EncodeReturnsTheFrame := by
  intro s m hm
  simp only [exec, execEEncode, hm, if_true, encodeMsg_eq_frameOf hm]
  rfl

theorem exec_tTxDrain_waits {s : State} {k : Nat} (h : s.txq.length < k) :
    exec (.tTxDrain k) s = .next (s.wait (.tTxDrain k)) := by
  have h0 : k ≠ 0 := by omega
  simp [exec, execTTxDrain, h0, h]

/-- Settles O39. -/
theorem drainWaitsForItsBytes : Obligations.DrainWaitsForItsBytes := fun _ _ => exec_tTxDrain_waits

theorem exec_hSend_enabled {s : State} {m : Message} (hd : s.dead = false) (hr : s.run = true) (hm : m.wf = true)
    (hw : s.wlock = none) (hf : s.txRoom (6 + m.length.toNat) = true) :
    exec (.hSend m) s = .next (s.writeFrame (encodeMsg m)) := by
  have hf' : s.txRoom (Config.frameMin + m.length.toNat) = true := hf
  simp [exec, execHSend, hd, hr, hm, hw, hf']

theorem exec_hSend_waits {s : State} {m : Message} (hd : s.dead = false) (hr : s.run = true) (hm : m.wf = true)
    (h : s.wlock ≠ none ∨ s.txRoom (6 + m.length.toNat) = false) :
    exec (.hSend m) s = .next (s.wait (.hSend m)) := by
  have hc : (s.wlock.isNone && s.txRoom (Config.frameMin + m.length.toNat)) = false := by
    rw [Bool.and_eq_false_iff]
    exact h.imp (fun hw => by simpa [Option.isSome_iff_ne_none] using hw) id
  simp [exec, execHSend, hd, hr, hm, hc]

theorem length_encodeMsg {m : Message} (hm : m.wf = true) : (encodeMsg m).length = 6 + m.length.toNat := by
  have hl := (wf_iff m).1 hm
  simp [encodeMsg_eq_frameOf hm, frameOf, hl]
  omega

/-- Settles O42: the two ways a write ends. -/
theorem sendAppendsTheFrameOrAPartOfIt : Obligations.SendAppendsTheFrameOrAPartOfIt := by
  intro s m hd hr hm hw hf
  rw [exec_hSend_enabled hd hr hm hw hf]
  refine ⟨fun h1 => ?_, fun h1 => ?_, fun n cs hn hc => ?_⟩
  · rw [writeFrame_ok h1, ← hw]
    rfl
  · refine ⟨_, (drawn_le s.afterDraw (encodeMsg m).length).trans (length_encodeMsg hm).le, ?_⟩
    rw [writeFrame_failed h1, ← hw]
    rfl
  · have h1 : s.drawn 1 ≠ 1 := by
      rw [drawn_of_choice hc (Nat.zero_le 1)]
      exact zero_ne_one
    have henv : s.env.used = { s.env with choices := n :: cs } := by simp [Inputs.used, hc]
    have hpick : s.env.used.pick (encodeMsg m).length = n := by
      rw [henv]
      exact Nat.mod_eq_of_lt (by rw [length_encodeMsg hm]; omega)
    rw [writeFrame_failed h1, hpick, henv, ← hw]
    rfl

/-- Settles O43; the longest frame has 261 bytes, which txq always has room for. -/
theorem sendWaitsForRoom : Obligations.SendWaitsForRoom := by
  refine ⟨fun s m hd hr hm h => exec_hSend_waits hd hr hm h, fun m => fits_tx_frame ?_⟩
  have := m.length.isLt
  omega

/-! ## Control -/

theorem exec_hStart_opens {s : State} {transportId : String} {baudRate : Int} (hr : s.run = false) (hd : s.dead = false)
    (ht : s.turn ≠ .observer) (h1 : s.drawn 1 = 1) :
    exec (.hStart transportId baudRate) s = .next (s.afterDraw.askOpen transportId baudRate).started := by
  simp [exec, execHStart, hr, hd, ht, h1]

theorem exec_hStart_fails {s : State} {transportId : String} {baudRate : Int} (hr : s.run = false) (hd : s.dead = false)
    (ht : s.turn ≠ .observer) (h1 : s.drawn 1 ≠ 1) :
    exec (.hStart transportId baudRate) s = .next (s.afterDraw.askOpen transportId baudRate).failedStart := by
  simp [exec, execHStart, hr, hd, ht, h1]

/-- Settles O40; a failed start finds run already clear. -/
theorem startOpensOrKills : Obligations.StartOpensOrKills := by
  intro s transportId baudRate hr hd ht
  refine ⟨fun h1 => exec_hStart_opens hr hd ht h1, fun h1 => ?_⟩
  rw [exec_hStart_fails hr hd ht h1, State.failedStart, ← hr]
  rfl

/-- Settles O41. -/
theorem lastRegistrationWins : Obligations.LastRegistrationWins := fun _ _ => rfl

theorem exec_hStop_begins {s : State} (hr : s.run = true) (hd : s.dead = false) (ht : s.turn ≠ .observer)
    (ho : s.obsRun = none) (hs : s.stopping = none) :
    exec .hStop s = .next (s.afterDraw.stopWith (s.drawn s.rxq.length)) := by
  simp [exec, execHStop, hr, hd, ht, ho, hs]

theorem exec_hStop_resumes {s : State} {n : Nat} (hr : s.run = true) (hd : s.dead = false) (ht : s.turn ≠ .observer)
    (ho : s.obsRun = none) (hs : s.stopping = some { who := s.turn, left := n }) :
    exec .hStop s = .next (s.stopWith n) := by
  simp [exec, execHStop, hr, hd, ht, ho, hs]

/-- Settles O46. -/
theorem stopWaitsForTheObserver : Obligations.StopWaitsForTheObserver := by
  rintro s hr hd ht (ho | ⟨st, hs, hw⟩)
  · simp [exec, execHStop, hr, hd, ht, Option.isSome_iff_ne_none.2 ho]
  · by_cases ho : s.obsRun.isSome = true
    · simp [exec, execHStop, hr, hd, ht, ho]
    · simp [exec, execHStop, hr, hd, ht, ho, hs, hw]

/-- Settles O47: each refusal, where those named before it do not hold (log 24). -/
theorem misuseIsRefused : Obligations.MisuseIsRefused := by
  intro s transportId baudRate m
  refine ⟨fun ht => ⟨?_, ?_⟩, fun ht hd => ⟨?_, ?_⟩, fun hd => ?_, fun ht hd hr => ?_, fun ht hd hr => ?_,
    fun hd hr => ?_, fun hm => ?_, fun hd hr hm => ?_, rfl⟩
  · simp [exec, execHStart, ht]
  · simp [exec, execHStop, ht]
  · simp [exec, execHStart, ht, hd]
  · simp [exec, execHStop, ht, hd]
  · simp [exec, execHSend, hd]
  · simp [exec, execHStart, ht, hd, hr]
  · simp [exec, execHStop, ht, hd, hr]
  · simp [exec, execHSend, hd, hr]
  · simp [exec, execEEncode, hm]
  · simp [exec, execHSend, hd, hr, hm]

/-! ## The two sides ignore each other (spec/20_memory.md R42) -/

/-- The operations of the receive side and the pump. -/
theorem issuedBy_receive {i : Instr} (h : issuedBy i .rxSide = true ∨ issuedBy i .pump = true) :
    (∃ bs, i = .tRxDeliver bs) ∨ i = .tRxError ∨ i = .pRxConsume := by
  cases i <;> simp [issuedBy, Agent.isClient] at h ⊢

/-- The operation of the transmit side. -/
theorem issuedBy_txSide {i : Instr} (h : issuedBy i .txSide = true) : ∃ k, i = .tTxDrain k := by
  cases i <;> simp [issuedBy, Agent.isClient] at h ⊢

/-- What feeding a byte does is independent of the transmit side. -/
theorem feed_txq_wlock (s : State) (b : Byte) (q : List Byte) (w : Option Agent) :
    State.feed { s with txq := q, wlock := w } b = { s.feed b with txq := q, wlock := w } := by
  rw [feed_eq, feed_eq]
  cases (decStep s.dec b).2 with
  | none => rfl
  | some m => unfold State.deliver; cases s.obs <;> rfl

/-- Feeding a byte leaves the transmit side as it is. -/
theorem feed_transmit (s : State) (b : Byte) :
    (s.feed b).txq = s.txq ∧ (s.feed b).wlock = s.wlock ∧ (s.feed b).out.wire = s.out.wire := by
  rw [feed_eq]
  cases (decStep s.dec b).2 <;> simp

/-- Settles O48, operation by operation, each where it is enabled and where it waits. -/
theorem receivingIgnoresTheTransmitSide : Obligations.ReceivingIgnoresTheTransmitSide := by
  intro s t i q w hi ht
  obtain ⟨bs, rfl⟩ | rfl | rfl := issuedBy_receive hi
  · by_cases h : s.run = true ∧ s.rxRoom bs.length = true
    · obtain ⟨hr, hf⟩ := h
      cases (exec_tRxDeliver_enabled hr hf).symm.trans ht
      exact ⟨rfl, rfl, rfl, exec_tRxDeliver_enabled (s := { s with txq := q, wlock := w }) hr hf⟩
    · have h' : s.run = false ∨ s.rxRoom bs.length = false := by
        simpa only [not_and_or, Bool.not_eq_true] using h
      cases (exec_tRxDeliver_waits h').symm.trans ht
      exact ⟨rfl, rfl, rfl, exec_tRxDeliver_waits (s := { s with txq := q, wlock := w }) h'⟩
  · by_cases hr : s.run = true
    · cases (exec_tRxError_enabled hr).symm.trans ht
      exact ⟨rfl, rfl, rfl, exec_tRxError_enabled (s := { s with txq := q, wlock := w }) hr⟩
    · have hr' := Bool.eq_false_of_not_eq_true hr
      cases (exec_tRxError_waits hr').symm.trans ht
      exact ⟨rfl, rfl, rfl, exec_tRxError_waits (s := { s with txq := q, wlock := w }) hr'⟩
  · by_cases h : s.run = false ∨ s.rxq = [] ∨ s.obsRun ≠ none
    · cases (exec_pRxConsume_waits h).symm.trans ht
      exact ⟨rfl, rfl, rfl, exec_pRxConsume_waits (s := { s with txq := q, wlock := w }) h⟩
    · simp only [not_or, Bool.not_eq_false, ne_eq, not_not] at h
      obtain ⟨hr, hq, ho⟩ := h
      obtain ⟨b, rest, hq⟩ := List.exists_cons_of_ne_nil hq
      cases (exec_pRxConsume_enabled hr hq ho).symm.trans ht
      obtain ⟨h1, h2, h3⟩ := feed_transmit { s with rxq := rest } b
      refine ⟨h1, h2, h3, ?_⟩
      rw [exec_pRxConsume_enabled (s := { s with txq := q, wlock := w }) hr hq ho]
      exact congrArg _ (feed_txq_wlock { s with rxq := rest } b q w)

/-- The receive side with other registers and another queue. -/
abbrev State.withReceive (s : State) (q : List Byte) (d : Dec) (o : Option CallbackId) (n : Nat) (l : Bool) : State :=
  { s with rxq := q, dec := d, obs := o, rderr := n, linkLost := l }

/-- What the write of a frame does is independent of the receive side. -/
theorem writeFrame_withReceive (s : State) (bs q : List Byte) (d : Dec) (o : Option CallbackId) (n : Nat) (l : Bool) :
    (s.withReceive q d o n l).writeFrame bs = (s.writeFrame bs).withReceive q d o n l := by
  by_cases h : s.drawn 1 = 1
  · rw [writeFrame_ok h, writeFrame_ok (s := s.withReceive q d o n l) h]
  · rw [writeFrame_failed h, writeFrame_failed (s := s.withReceive q d o n l) h]

/-- The write of a frame leaves the receive side as it is. -/
theorem writeFrame_receive (s : State) (bs : List Byte) :
    (s.writeFrame bs).rxq = s.rxq ∧ (s.writeFrame bs).dec = s.dec ∧ (s.writeFrame bs).obs = s.obs ∧
      (s.writeFrame bs).rderr = s.rderr ∧ (s.writeFrame bs).linkLost = s.linkLost ∧
      (s.writeFrame bs).obsRun = s.obsRun ∧ (s.writeFrame bs).out.calls = s.out.calls := by
  by_cases h : s.drawn 1 = 1
  · rw [writeFrame_ok h]
    exact ⟨rfl, rfl, rfl, rfl, rfl, rfl, rfl⟩
  · rw [writeFrame_failed h]
    exact ⟨rfl, rfl, rfl, rfl, rfl, rfl, rfl⟩

/-- Settles O49, operation by operation, each where it is enabled and where it waits. -/
theorem sendingIgnoresTheReceiveSide : Obligations.SendingIgnoresTheReceiveSide := by
  intro s t i q d o n l hi ht
  rcases hi with ⟨m, rfl | rfl⟩ | hi
  · obtain ⟨hd, hr, hm, -⟩ := hSend_next ht
    by_cases h : s.wlock = none ∧ s.txRoom (6 + m.length.toNat) = true
    · obtain ⟨hw, hf⟩ := h
      cases (exec_hSend_enabled hd hr hm hw hf).symm.trans ht
      refine ⟨writeFrame_receive s _, ?_⟩
      rw [exec_hSend_enabled (s := s.withReceive q d o n l) hd hr hm hw hf, writeFrame_withReceive]
    · rw [not_and_or, Bool.not_eq_true] at h
      cases (exec_hSend_waits hd hr hm h).symm.trans ht
      exact ⟨⟨rfl, rfl, rfl, rfl, rfl, rfl, rfl⟩, exec_hSend_waits (s := s.withReceive q d o n l) hd hr hm h⟩
  · obtain ⟨hm, rfl⟩ := eEncode_next ht
    exact ⟨⟨rfl, rfl, rfl, rfl, rfl, rfl, rfl⟩, by simp [exec, execEEncode, hm]⟩
  · obtain ⟨k, rfl⟩ := issuedBy_txSide hi
    by_cases h0 : k = 0
    · subst h0
      cases ht
    by_cases h : k ≤ s.txq.length
    · have hpos : 1 ≤ k := Nat.one_le_iff_ne_zero.2 h0
      cases (exec_tTxDrain_enabled hpos h).symm.trans ht
      exact ⟨⟨rfl, rfl, rfl, rfl, rfl, rfl, rfl⟩, exec_tTxDrain_enabled (s := s.withReceive q d o n l) hpos h⟩
    · rw [not_le] at h
      cases (exec_tTxDrain_waits h).symm.trans ht
      exact ⟨⟨rfl, rfl, rfl, rfl, rfl, rfl, rfl⟩, exec_tTxDrain_waits (s := s.withReceive q d o n l) h⟩

end Sys2Proof.Machine
end

section
/-! PROOFS. The encoder: the frame by position, its injectivity, and the byte-serial realisation (spec/41_encoder.md
R101, R106, R107, R109). -/

namespace Sys2Proof.Machine

/-! ## The frame by position (R101, R106) -/

/-- The byte at position i of a frame: each position lies in the header, the payload or the trailer. -/
theorem getElem?_encodeMsg {m : Message} (hm : m.wf = true) {i : Nat} (hi : i < 6 + m.length.toNat) :
    (encodeMsg m)[i]? = some (encodeByte m i) := by
  have hl := (wf_iff m).1 hm
  rw [encodeMsg_eq_frameOf hm, frameOf, List.append_assoc]
  match i with
  | 0 | 1 | 2 | 3 => rfl
  | j + 4 =>
    have hj : j < m.length.toNat + 2 := by omega
    have hhead : ∀ tail : List Byte,
        ([Config.sync, Config.sync, m.command, m.length] ++ tail)[j + 4]? = tail[j]? := fun _ => rfl
    rw [hhead]
    by_cases hp : j < m.length.toNat
    · rw [List.getElem?_append_left (by omega)]
      simp [encodeByte, Config.headerBytes, show j + 4 < 4 + m.length.toNat by omega, hl, hp]
    · rw [List.getElem?_append_right (by omega)]
      have ht : encodeByte m (j + 4) = Config.trailerFill := by
        simp [encodeByte, Config.headerBytes, show ¬ j + 4 < 4 + m.length.toNat by omega]
      rw [ht]
      obtain h | h : j - m.payload.length = 0 ∨ j - m.payload.length = 1 := by omega
      all_goals rw [h]; rfl

/-- Settles O23. -/
theorem encodeByPosition : Obligations.EncodeByPosition := by
  intro m hm
  have hlen := length_encodeMsg hm
  have hlt := m.length.isLt
  exact ⟨hlen, by omega, by omega, fun i hi => getElem?_encodeMsg hm hi⟩

/-- Settles O26: the decoder gives back the message. -/
theorem encodeIsInjective : Obligations.EncodeIsInjective := by
  intro m m' hm hm' he
  have h := decRun_encodeMsg hm (d := Dec.init) rfl rfl
  rw [he, decRun_encodeMsg hm' rfl rfl] at h
  exact (List.singleton_inj.1 (congrArg Prod.snd h)).symm

/-! ## The serialiser -/

/-- What a frame still holds from a position on. -/
theorem drop_encodeMsg {m : Message} (hm : m.wf = true) {i : Nat} (hi : i < 6 + m.length.toNat) :
    (encodeMsg m).drop i = encodeByte m i :: (encodeMsg m).drop (i + 1) := by
  have hi' : i < (encodeMsg m).length := by rwa [length_encodeMsg hm]
  have hget := getElem?_encodeMsg hm hi
  rw [List.getElem?_eq_getElem hi', Option.some_inj] at hget
  rw [List.drop_eq_getElem_cons hi', hget]

theorem drop_encodeMsg_end {m : Message} (hm : m.wf = true) {i : Nat} (hi : 6 + m.length.toNat ≤ i) :
    (encodeMsg m).drop i = [] :=
  List.drop_eq_nil_of_le (by rwa [length_encodeMsg hm])

/-- While a byte is presented the 9-bit counter does not wrap. -/
theorem accepted_epos {p : Serialiser} (h : p.epos.toNat < 6 + p.msg.length.toNat) :
    p.accepted.epos.toNat = p.epos.toNat + 1 := by
  have := p.msg.length.isLt
  simp only [Serialiser.accepted]
  bv_omega

theorem byte_some {p : Serialiser} (h : p.epos.toNat < 6 + p.msg.length.toNat) :
    p.byte = some (encodeByte p.msg p.epos.toNat) := if_pos h

theorem byte_none {p : Serialiser} (h : 6 + p.msg.length.toNat ≤ p.epos.toNat) : p.byte = none := if_neg (not_lt.2 h)

/-- What a serialiser has accepted from its position on. -/
theorem bytes_eq_take (n : Nat) : ∀ p : Serialiser, p.msg.wf = true →
    p.bytes n = ((encodeMsg p.msg).drop p.epos.toNat).take n := by
  induction n with
  | zero => intro p _; rfl
  | succ n ih =>
    intro p hm
    rw [Serialiser.bytes]
    by_cases h : p.epos.toNat < 6 + p.msg.length.toNat
    · rw [byte_some h, drop_encodeMsg hm h, List.take_succ_cons, ← accepted_epos h]
      exact congrArg _ (ih p.accepted hm)
    · rw [byte_none (not_lt.1 h), drop_encodeMsg_end hm (not_lt.1 h), List.take_nil]

/-- Settles O24. -/
theorem serialiserSendsTheFrame : Obligations.SerialiserSendsTheFrame :=
  fun m n hm => bytes_eq_take n (Serialiser.start m) hm

/-! ## The serial send beside the block (R107 with spec/42_transport.md R124) -/

/-- A drain takes from the head, an append adds at the tail. -/
theorem drain_append {s : State} {k : Nat} (h : k ≤ s.txq.length) (bs : List Byte) :
    (s.drain k).append bs = (s.append bs).drain k := by
  simp [State.drain, State.append, List.drop_append_of_le_length h, List.take_append_of_le_length h]

theorem append_append (s : State) (as bs : List Byte) : (s.append as).append bs = s.append (as ++ bs) := by
  simp [State.append]

/-- Neither txq nor the wire after some drains depends on the rest of the block. -/
theorem drainAll_congr (ks : List Nat) : ∀ {s t : State}, s.txq = t.txq → s.out.wire = t.out.wire →
    (s.drainAll ks).txq = (t.drainAll ks).txq ∧ (s.drainAll ks).out.wire = (t.drainAll ks).out.wire := by
  induction ks with
  | nil => exact fun hq hw => ⟨hq, hw⟩
  | cons k ks ih => exact fun hq hw => ih (by simp [hq]) (by simp [hq, hw])

/-- No message is taken among the events. -/
abbrev noTake (es : List SerialEvent) : Prop := ∀ e ∈ es, ∀ m, e ≠ .take m

/-- With no message held only drains are enabled, and they are those of the block alone. -/
theorem run_idle (es : List SerialEvent) : ∀ {s : State} {x : Serial}, noTake es →
    Serial.run { block := s, sending := none } es = some x →
    x.sending = none ∧ x.block = s.drainAll (SerialEvent.drains es) := by
  induction es with
  | nil => rintro s x _ ⟨⟩; exact ⟨rfl, rfl⟩
  | cons e es ih =>
    intro s x hn hx
    obtain ⟨he, hes⟩ := List.forall_mem_cons.1 hn
    cases e with
    | take m => exact absurd rfl (he m)
    | accept => cases hx
    | drain k =>
      simp only [Serial.run, Serial.next] at hx
      split at hx
      case h_1 => cases hx
      case h_2 y hy =>
        split at hy <;> cases hy
        exact ih hes hx

/-- What holds of a serial send from the block b and the serialiser p to x, over the drains ks: ended, x is b with the
rest of the frame appended and the lock released, and the same drains; in progress, the lock is still held, what has left and
what is still to come make up what had left and what was to come, and run and dead are as they were. -/
structure SendsOn (b : State) (p : Serialiser) (ks : List Nat) (x : Serial) : Prop where
  ended : x.sending = none →
    x.block = ((b.append ((encodeMsg p.msg).drop p.epos.toNat)).unlock).drainAll ks
  sending : ∀ q, x.sending = some q →
    q.msg = p.msg ∧ x.block.wlock = b.wlock ∧ x.block.run = b.run ∧ x.block.dead = b.dead ∧
    x.block.out.wire ++ x.block.txq ++ (encodeMsg p.msg).drop q.epos.toNat =
      b.out.wire ++ b.txq ++ (encodeMsg p.msg).drop p.epos.toNat

/-- A byte accepted that is not the last is one byte of the frame appended, and the counter one further. -/
theorem advance_more {b : State} {p : Serialiser} (h : p.epos.toNat + 1 < 6 + p.msg.length.toNat) (c : Byte) :
    Serial.advance { block := b, sending := some p } p c = { block := b.append [c], sending := some p.accepted } := by
  have hb : p.accepted.byte = some _ := byte_some (by rw [accepted_epos (by omega)]; exact h)
  simp [Serial.advance, hb]

/-- The last byte accepted is appended, and the lock released. -/
theorem advance_last {b : State} {p : Serialiser} (h : p.epos.toNat + 1 = 6 + p.msg.length.toNat) (c : Byte) :
    Serial.advance { block := b, sending := some p } p c = { block := (b.append [c]).unlock, sending := none } := by
  have hb : p.accepted.byte = none := byte_none (by rw [accepted_epos (by omega)]; exact h.ge)
  simp [Serial.advance, hb]

theorem next_accept {b : State} {p : Serialiser} (h : p.epos.toNat < 6 + p.msg.length.toNat) :
    Serial.next { block := b, sending := some p } .accept =
      if b.txRoom 1 then
        some (Serial.advance { block := b, sending := some p } p (encodeByte p.msg p.epos.toNat))
      else none := by
  simp only [Serial.next, Serial.accept, byte_some h]

/-- A serial send in progress, over any events that take no message. -/
theorem run_sending (es : List SerialEvent) : ∀ {b : State} {p : Serialiser} {x : Serial}, p.msg.wf = true →
    p.epos.toNat < 6 + p.msg.length.toNat → noTake es → Serial.run { block := b, sending := some p } es = some x →
    SendsOn b p (SerialEvent.drains es) x := by
  induction es with
  | nil =>
    rintro b p x _ _ _ ⟨⟩
    exact ⟨(by rintro ⟨⟩), fun q hq => by cases hq; exact ⟨rfl, rfl, rfl, rfl, rfl⟩⟩
  | cons e es ih =>
    intro b p x hm hp hn hx
    obtain ⟨he, hes⟩ := List.forall_mem_cons.1 hn
    rw [Serial.run] at hx
    cases e with
    | take m => exact absurd rfl (he m)
    | accept =>
      rw [next_accept hp] at hx
      split at hx
      case h_1 => cases hx
      case h_2 y hy =>
        split at hy <;> cases hy
        have hdrop := drop_encodeMsg hm hp
        by_cases hlast : p.epos.toNat + 1 = 6 + p.msg.length.toNat
        · rw [advance_last hlast] at hx
          obtain ⟨hs, hb⟩ := run_idle es hes hx
          refine ⟨fun _ => ?_, fun q hq => by rw [hs] at hq; cases hq⟩
          rw [hb, hdrop, drop_encodeMsg_end hm hlast.ge]
          rfl
        · have hmore : p.epos.toNat + 1 < 6 + p.msg.length.toNat := by omega
          rw [advance_more hmore] at hx
          have hacc := accepted_epos hp
          obtain ⟨h1, h2⟩ := ih (p := p.accepted) hm (by rw [hacc]; exact hmore) hes hx
          rw [hacc, append_append] at h1
          simp only [hacc] at h2
          refine ⟨fun hs => ?_, fun q hq => ?_⟩
          · rw [hdrop]; exact h1 hs
          · obtain ⟨h3, h4, h5, h6, h7⟩ := h2 q hq
            refine ⟨h3, h4, h5, h6, h7.trans ?_⟩
            rw [hdrop]
            simp [Serialiser.accepted]
    | drain k =>
      simp only [Serial.next] at hx
      split at hx
      case h_1 => cases hx
      case h_2 y hy =>
        split at hy <;> cases hy
        rename_i hk
        obtain ⟨h1, h2⟩ := ih hm hp hes hx
        rw [drain_append hk.2] at h1
        refine ⟨h1, fun q hq => ?_⟩
        obtain ⟨h3, h4, h5, h6, h7⟩ := h2 q hq
        refine ⟨h3, h4, h5, h6, h7.trans ?_⟩
        simp

/-- With room for the rest of the frame, as many acceptances as bytes are left end the send. -/
theorem run_accepts (n : Nat) : ∀ {b : State} {p : Serialiser}, p.msg.wf = true →
    p.epos.toNat + (n + 1) = 6 + p.msg.length.toNat → b.txRoom (n + 1) = true →
    Serial.run { block := b, sending := some p } (List.replicate (n + 1) .accept) =
      some { block := (b.append ((encodeMsg p.msg).drop p.epos.toNat)).unlock, sending := none } := by
  induction n with
  | zero =>
    intro b p hm hp hroom
    rw [List.replicate_succ, Serial.run, next_accept (by omega), hroom, advance_last hp,
      drop_encodeMsg hm (by omega), drop_encodeMsg_end hm hp.ge]
    rfl
  | succ n ih =>
    intro b p hm hp hroom
    have hroom1 : b.txRoom 1 = true := fits_mono (by omega) hroom
    have hroom' : (b.append [encodeByte p.msg p.epos.toNat]).txRoom (n + 1) = true :=
      fits_mono (by simp only [State.append_txq, List.length_append, List.length_singleton]; omega) hroom
    have hacc : p.accepted.epos.toNat = p.epos.toNat + 1 := accepted_epos (by omega)
    rw [List.replicate_succ, Serial.run, next_accept (by omega), hroom1, if_pos rfl, advance_more (by omega),
      drop_encodeMsg hm (by omega)]
    have hleft : p.accepted.epos.toNat + (n + 1) = 6 + p.accepted.msg.length.toNat := by
      rw [hacc, Nat.add_right_comm]
      exact hp
    refine (ih (p := p.accepted) hm hleft hroom').trans ?_
    rw [hacc, append_append]
    rfl

/-- Where a message can be taken. -/
theorem take_some {s : State} {m : Message} (hw : s.wlock = none) (hr : s.run = true) (hd : s.dead = false)
    (hm : m.wf = true) :
    Serial.next { block := s, sending := none } (.take m) =
      some { block := s.lock, sending := some (Serialiser.start m) } := by
  simp [Serial.next, Serial.take, hw, hr, hd, hm]

/-- A message taken was taken under the conditions of H.SEND. -/
theorem of_take {s : State} {m : Message} {y : Serial}
    (h : Serial.next { block := s, sending := none } (.take m) = some y) :
    s.wlock = none ∧ s.run = true ∧ s.dead = false ∧ m.wf = true ∧
      y = { block := s.lock, sending := some (Serialiser.start m) } := by
  simp only [Serial.next, Serial.take] at h
  split at h
  case isFalse => cases h
  case isTrue hc =>
    cases h
    simp only [Bool.and_eq_true, Option.isNone_iff_eq_none, Bool.not_eq_true'] at hc
    obtain ⟨⟨⟨⟨-, hw⟩, hr⟩, hd⟩, hm⟩ := hc
    exact ⟨hw, hr, hd, hm, rfl⟩

/-- A frame has a first byte. -/
theorem start_epos_lt (m : Message) : (Serialiser.start m).epos.toNat < 6 + (Serialiser.start m).msg.length.toNat :=
  Nat.lt_of_lt_of_le (by decide : 0 < 6) (Nat.le_add_right _ _)

/-- Taking the lock, appending the frame and releasing the lock is appending the frame where the lock was free. -/
theorem lock_append_unlock {s : State} (hw : s.wlock = none) (bs : List Byte) :
    (s.lock.append bs).unlock = { s with txq := s.txq ++ bs } := by
  rw [State.unlock, ← hw]
  rfl

/-- Settles O25: the send from its taking on is SendsOn (run_sending), and can be run to its end (run_accepts). -/
theorem serialSendIsTheAtomicSend : Obligations.SerialSendIsTheAtomicSend := by
  refine ⟨fun s m es x hes hx => ?_, fun s m hw hr hd hm hf => ?_⟩
  · rw [Serial.run] at hx
    split at hx
    case h_1 => cases hx
    case h_2 y hy =>
      obtain ⟨hw, hr, hd, hm, rfl⟩ := of_take hy
      obtain ⟨hended, hsending⟩ := run_sending es hm (start_epos_lt m) hes hx
      refine ⟨fun hs => ?_, fun p hp => ?_⟩
      · have hblock := (hended hs).trans (congrArg (State.drainAll · _) (lock_append_unlock hw _))
        refine ⟨hblock, fun a ha h1 hf => ?_⟩
        rw [exec_hSend_enabled hd hr hm hw hf, writeFrame_ok h1] at ha
        cases ha
        rw [hblock]
        exact drainAll_congr _ rfl rfl
      · obtain ⟨hmsg, hlock, hrun, hdead, hbytes⟩ := hsending p hp
        have hlock' : x.block.wlock = some s.turn := hlock
        refine ⟨hmsg, hlock', ?_, fun m' => by simp [Serial.next, Serial.take, hp], fun m' hm' => ?_⟩
        · have hall : s.out.wire ++ s.txq ++ encodeMsg m =
              s.out.wire ++ s.txq ++ (encodeMsg m).take p.epos.toNat ++ (encodeMsg m).drop p.epos.toNat := by
            rw [List.append_assoc _ (List.take _ _), List.take_append_drop]
          exact List.append_cancel_right (hbytes.trans hall)
        · exact exec_hSend_waits (hdead.trans hd) (hrun.trans hr) hm' (.inl (by simp [hlock']))
  · obtain ⟨n, hn⟩ : ∃ n, 6 + m.length.toNat = n + 1 := ⟨5 + m.length.toNat, by omega⟩
    rw [Serial.run, take_some hw hr hd hm, hn]
    rw [hn] at hf
    refine (run_accepts n (b := s.lock) (p := Serialiser.start m) hm ((Nat.zero_add _).trans hn.symm) hf).trans ?_
    rw [lock_append_unlock hw]
    rfl

end Sys2Proof.Machine
end

section
/-! PROOFS. One step: what it performs, and everything it can do (spec/00_scope.md R5, R6, spec/42_transport.md R115,
R119, spec/60_exceptions.md R160). -/

namespace Sys2Proof.Machine

/-! ## What a turn performs -/

theorem step_passes {s : State} (h : s.nextTurn.canAct = false) : step s = .next s.nextTurn := by
  simp [step, takeTurn, h]

theorem step_performs {s : State} {act : Action} {rest : List Request} (hc : s.nextTurn.canAct = true)
    (hr : takeRequest s.nextTurn.turn s.env.pending = some (act, rest)) :
    step s = perform act { s.nextTurn with env := { s.nextTurn.env with pending := rest } } := by
  simp [step, takeTurn, hc, hr]

theorem step_ownTurn {s : State} (hc : s.nextTurn.canAct = true)
    (hr : takeRequest s.nextTurn.turn s.env.pending = none) : step s = ownTurn s.nextTurn := by
  simp [step, takeTurn, hc, hr]

theorem canAct_pump {s : State} (ht : s.nextTurn.turn = .pump) (hr : s.run = true) (ho : s.obsRun = none)
    (hs : s.stopping = none) : s.nextTurn.canAct = true := by
  simp [State.canAct, ht, hr, ho, hs]

theorem canAct_observer {s : State} (ht : s.nextTurn.turn = .observer) (ho : s.obsRun ≠ none) :
    s.nextTurn.canAct = true := by
  simp [State.canAct, ht, Option.isSome_iff_ne_none.2 ho]

/-- Settles O30: the pump's own turn is the fetch of the head. -/
theorem stepRunsTheDecodedByte : Obligations.StepRunsTheDecodedByte := by
  intro s b rest i ht hr ho hs hreq hq hi
  cases hi
  rw [step_ownTurn (canAct_pump ht hr ho hs) (by rwa [ht])]
  simp [ownTurn, ht, fetch, hq]

/-- The arcs and the COMMAND values are no agent's to ask for. -/
theorem issuedBy_of_byte {i : Instr} (a : Agent)
    (h : (∃ slot b, encode i = some (.rxb slot b)) ∨ ∃ b, encode i = some (.cmdid b)) : issuedBy i a = false := by
  cases i <;> simp [encode] at h <;> rfl

/-- Settles O31. -/
theorem stepPerformsTheRequest : Obligations.StepPerformsTheRequest := by
  refine fun s => ⟨step_passes, fun i rest hc hreq => ⟨fun hi => ?_, fun hi => ?_⟩, fun rest hc ht hreq => ?_⟩ <;>
    rw [step_performs hc hreq]
  · exact if_pos hi
  · have hi' : issuedBy i s.nextTurn.turn = false := hi.elim id (issuedBy_of_byte _)
    exact if_neg (by simp [hi'])
  · exact if_neg ht

/-- Settles O32. -/
theorem theObserversReturnEndsItsInvocation : Obligations.TheObserversReturnEndsItsInvocation := by
  refine fun s ht ho => ⟨fun rest hreq => ?_, fun hreq => ?_⟩
  · rw [step_performs (canAct_observer ht ho) (by rwa [ht])]
    exact if_pos ht
  · rw [step_ownTurn (canAct_observer ht ho) (by rwa [ht]), ownTurn, ht]
    rfl

/-- A turn without a request always has a next state: the pump's because every byte selects an arc that runs
(exec_decodeRxb). -/
theorem ownTurn_next (s : State) : ∃ t, ownTurn s = .next t := by
  unfold ownTurn
  split
  case h_1 =>
    unfold fetch
    split
    case h_1 => exact ⟨_, rfl⟩
    case h_2 b rest _ => exact ⟨_, exec_decodeRxb { s with rxq := rest } b⟩
  all_goals exact ⟨_, rfl⟩

/-- Settles O33. -/
theorem noReceivedByteStopsTheBlock : Obligations.NoReceivedByteStopsTheBlock := by
  intro s hreq
  cases hc : s.nextTurn.canAct
  · exact ⟨_, step_passes hc⟩
  · rw [step_ownTurn hc hreq]
    exact ownTurn_next _

/-! ## Everything a step can do -/

/-- The state with other inputs and another turn: what the block itself is, is unchanged. -/
abbrev State.withInputs (s : State) (a : Agent) (e : Inputs) : State := { s with turn := a, env := e }

/-- The agent's first request is the operation i. -/
abbrev State.asks (s : State) (a : Agent) (i : Instr) : Prop := ∃ rest, takeRequest a s.env.pending = some (.op i, rest)

/-- Everything the turn of agent a can do to the block, with its turn taken and e for inputs left: one constructor for
each rule that changes the state, with the conditions under which it does. A turn that passes, and an operation that
waits, is idle. -/
inductive StepEffect (s : State) (a : Agent) (e : Inputs) : State → Prop where
  | idle : StepEffect s a e (s.withInputs a e)
  /-- spec/60_exceptions.md R160 -/
  | returns : a = .observer → s.obsRun ≠ none → StepEffect s a e { s.withInputs a e with obsRun := none }
  /-- spec/42_transport.md R116 -/
  | delivers (bs : List Byte) : s.asks a (.tRxDeliver bs) → s.run = true →
      fits Config.rxDepth (s.rxq.length + bs.length) = true →
      StepEffect s a e { s.withInputs a e with rxq := s.rxq ++ bs, rderr := 0 }
  /-- spec/60_exceptions.md R154 -/
  | failsRead : s.run = true → StepEffect s a e (s.withInputs a e).failRead
  /-- spec/42_transport.md R118, R119 -/
  | feeds (b : Byte) (rest : List Byte) (o : Option Call) : s.run = true → s.obsRun = none → s.stopping = none →
      s.rxq = b :: rest →
      StepEffect s a e { s.withInputs a e with
        rxq := rest
        dec := (decStep s.dec b).1
        obsRun := o
        out := { s.out with calls := s.out.calls ++ callsOf s.obs (decStep s.dec b).2.toList } }
  /-- spec/41_encoder.md R100 -/
  | encodes (frame : List Byte) : StepEffect s a e { s.withInputs a e with out := { s.out with frame := frame } }
  /-- spec/42_transport.md R128 -/
  | drains (k : Nat) : k ≤ s.txq.length → StepEffect s a e ((s.withInputs a e).drain k)
  /-- spec/42_transport.md R121 -/
  | starts (transportId : String) (baudRate : Int) : s.asks a (.hStart transportId baudRate) → s.dead = false →
      s.run = false → StepEffect s a e ((s.withInputs a e).askOpen transportId baudRate).started
  /-- spec/60_exceptions.md R152 -/
  | failsStart (transportId : String) (baudRate : Int) : s.asks a (.hStart transportId baudRate) → s.dead = false →
      s.run = false → StepEffect s a e ((s.withInputs a e).askOpen transportId baudRate).failedStart
  /-- spec/42_transport.md R123 -/
  | registers (cb : CallbackId) : s.asks a (.hSetObs cb) → StepEffect s a e { s.withInputs a e with obs := some cb }
  /-- spec/42_transport.md R124 -/
  | sends (m : Message) : m.wf = true → s.run = true → s.wlock = none →
      fits Config.txDepth (s.txq.length + (6 + m.length.toNat)) = true →
      StepEffect s a e { s.withInputs a e with txq := s.txq ++ encodeMsg m }
  /-- spec/60_exceptions.md R153 -/
  | failsSend (m : Message) (n : Nat) : s.asks a (.hSend m) → m.wf = true → s.run = true → s.wlock = none →
      fits Config.txDepth (s.txq.length + (6 + m.length.toNat)) = true →
      StepEffect s a e { s.withInputs a e with
        txq := s.txq ++ (encodeMsg m).take n
        out := { s.out with raised := s.out.raised ++ [{ who := a, err := .writeError }] } }
  /-- spec/42_transport.md R129: j residual bytes consumed, k sent; the decoder's registers d are not spoken of -/
  | stops (d : Dec) (j k : Nat) : s.asks a .hStop → s.run = true → s.obsRun = none →
      ((∀ st, s.stopping = some st → st.left ≤ s.rxq.length) → j ≤ s.rxq.length) →
      StepEffect s a e { s.withInputs a e with
        dec := d, run := false, rxq := [], txq := [], obsRun := none, stopping := none
        out := { s.out with
          wire := s.out.wire ++ s.txq.take k
          calls := s.out.calls ++ callsOf s.obs (decRun s.dec (s.rxq.take j)).2 } }
  /-- spec/42_transport.md R129, log 8: n residual bytes asked for, i + 1 consumed -/
  | isHeldUp (n i : Nat) (o : Call) : s.asks a .hStop → s.run = true → s.obsRun = none →
      ((∀ st, s.stopping = some st → st.left ≤ s.rxq.length) → n ≤ s.rxq.length) → i < n →
      StepEffect s a e { s.withInputs a e with
        dec := (decRun s.dec (s.rxq.take (i + 1))).1
        rxq := s.rxq.drop (i + 1)
        obsRun := some o
        stopping := some { who := a, left := n - (i + 1) }
        out := { s.out with calls := s.out.calls ++ callsOf s.obs (decRun s.dec (s.rxq.take (i + 1))).2 } }

/-- What feeding a byte does, up to the observer invocation that it may begin. -/
theorem feed_shape (s : State) (b : Byte) : ∃ o, s.feed b = { s with
    dec := (decStep s.dec b).1
    obsRun := o
    out := { s.out with calls := s.out.calls ++ callsOf s.obs (decStep s.dec b).2.toList } } := by
  rw [feed_eq]
  cases (decStep s.dec b).2 with
  | none => exact ⟨s.obsRun, by simp⟩
  | some m => cases s.obs <;> simp [State.deliver, callsOf]

/-- A stopped state is given by what R129 says of it, up to the decoder's registers and the inputs. -/
theorem Stopped.eq {s t : State} {j k : Nat} (h : Stopped s t j k) :
    t = { s with
      dec := t.dec, run := false, rxq := [], txq := [], obsRun := none, stopping := none
      out := { s.out with
        wire := s.out.wire ++ s.txq.take k
        calls := s.out.calls ++ callsOf s.obs (decRun s.dec (s.rxq.take j)).2 }
      env := t.env } := by
  obtain ⟨dec, run, dead, obs, rxq, txq, wlock, rderr, linkLost, obsRun, stopping, ⟨wire, calls, raised, opened, frame⟩,
    turn, env⟩ := t
  obtain ⟨rfl, rfl, rfl, rfl, rfl, rfl, rfl, rfl, rfl, rfl, rfl, rfl, rfl, rfl, rfl, rfl, -, -⟩ := h
  rfl

theorem nextTurn_eq (s : State) : s.nextTurn = s.withInputs s.nextTurn.turn s.nextTurn.env := by
  unfold State.nextTurn
  split <;> rfl

/-- What an operation does that the agent a asks for. -/
theorem StepEffect.of_exec {s t : State} {a : Agent} {e : Inputs} {i : Instr} (hreq : s.asks a i)
    (hi : issuedBy i a = true) (hc : (s.withInputs a e).canAct = true) (h : exec i (s.withInputs a e) = .next t) :
    ∃ e', StepEffect s a e' t := by
  cases i with
  | tRxDeliver bs =>
    obtain rfl | ⟨hr, hf, rfl⟩ := tRxDeliver_next h
    · exact ⟨_, .idle⟩
    · exact ⟨e, .delivers bs hreq hr hf⟩
  | tRxError =>
    obtain rfl | ⟨hr, rfl⟩ := tRxError_next h
    · exact ⟨_, .idle⟩
    · exact ⟨e, .failsRead hr⟩
  | pRxConsume =>
    obtain rfl : a = .pump := by simpa [issuedBy] using hi
    obtain rfl | ⟨b, rest, hr, ho, hq, rfl⟩ := pRxConsume_next h
    · exact ⟨_, .idle⟩
    · obtain ⟨o, hf⟩ := feed_shape { s.withInputs .pump e with rxq := rest } b
      rw [hf]
      exact ⟨e, .feeds b rest o hr ho (by simp_all [State.canAct]) hq⟩
  | tTxDrain k =>
    obtain rfl | ⟨hk, rfl⟩ := tTxDrain_next h
    · exact ⟨_, .idle⟩
    · exact ⟨e, .drains k hk⟩
  | eEncode m =>
    obtain ⟨-, rfl⟩ := eEncode_next h
    exact ⟨e, .encodes _⟩
  | hStart transportId baudRate =>
    obtain ⟨-, hd, hr, rfl | rfl⟩ := hStart_next h
    · exact ⟨_, .starts transportId baudRate hreq hd hr⟩
    · exact ⟨_, .failsStart transportId baudRate hreq hd hr⟩
  | hSetObs cb =>
    obtain rfl := hSetObs_next h
    exact ⟨e, .registers cb hreq⟩
  | hSend m =>
    obtain ⟨-, hr, hm, rfl | ⟨hw, hf, rfl⟩⟩ := hSend_next h
    · exact ⟨_, .idle⟩
    · by_cases h1 : (s.withInputs a e).drawn 1 = 1
      · rw [writeFrame_ok h1, ← hw]
        exact ⟨e.used, .sends (s := s) m hm hr hw hf⟩
      · rw [writeFrame_failed h1, ← hw]
        exact ⟨e.used.used, .failsSend (s := s) m _ hreq hm hr hw hf⟩
  | hStop =>
    obtain rfl | ⟨n, e', hn, hr, ho, ⟨k, -, hs⟩ | ⟨i, m, f, hin, hf, -, hm, rfl⟩⟩ := hStop_effect h
    · exact ⟨_, .idle⟩
    · rw [hs.eq]
      exact ⟨t.env, .stops t.dec n k hreq hr ho hn⟩
    · have hcalls : [Call.mk f m] = callsOf s.obs (decRun s.dec (s.rxq.take (i + 1))).2 := by
        rw [show s.obs = some f from hf, show (decRun s.dec (s.rxq.take (i + 1))).2 = [m] from hm]
        rfl
      rw [hcalls]
      exact ⟨{ e' with pending := ⟨a, .op .hStop⟩ :: e'.pending }, .isHeldUp (s := s) n i ⟨f, m⟩ hreq hr ho hn hin⟩
  | _ => cases hi

/-- What a turn does that agent a takes with the requests of s pending. -/
theorem StepEffect.of_takeTurn {s t : State} {a : Agent} {e : Inputs} (hp : e.pending = s.env.pending)
    (h : takeTurn (s.withInputs a e) = .next t) : ∃ e', StepEffect s a e' t := by
  obtain rfl | ⟨i, rest, hc, hreq, hi, hx⟩ | ⟨rest, rfl, hc, -, rfl⟩ | ⟨rfl, hc, rfl⟩ |
    ⟨b, rest, -, hr, ho, hs, hq, hx⟩ := takeTurn_cases h
  · exact ⟨e, .idle⟩
  · exact of_exec (e := { e with pending := rest }) ⟨rest, hp ▸ hreq⟩ hi hc hx
  · exact ⟨{ e with pending := rest }, .returns (s := s) rfl (Option.isSome_iff_ne_none.1 hc)⟩
  · exact ⟨e, .returns (s := s) rfl (Option.isSome_iff_ne_none.1 hc)⟩
  · cases (exec_decodeRxb { s.withInputs a e with rxq := rest } b).symm.trans hx
    obtain ⟨o, hf⟩ := feed_shape { s.withInputs a e with rxq := rest } b
    rw [hf]
    exact ⟨e, .feeds b rest o hr ho hs hq⟩

/-- Everything a step can do. -/
theorem step_effect {s t : State} (h : step s = .next t) : ∃ e, StepEffect s s.nextTurn.turn e t :=
  StepEffect.of_takeTurn s.nextTurn_pending ((congrArg takeTurn (nextTurn_eq s)).symm.trans h)

end Sys2Proof.Machine
end

section
/-! PROOFS. The rules of the whole machine: the block's invariant, and what a step can change of each of its parts
(spec/10_state.md R17 to R23, spec/20_memory.md R39 to R46, spec/60_exceptions.md R152 to R160). Each goes through the
effects that a step can have (step_effect). -/

namespace Sys2Proof.Machine

/-! ## The invariant -/

/-- The count stays at most the limit, and where it reaches the limit link_lost is set. -/
theorem rdErrNext_le (n : Nat) : rdErrNext n ≤ Config.rdErrLimit := min_le_right _ _

theorem linkLostNext_limit (old : Bool) {n : Nat} (h : n = Config.rdErrLimit) : linkLostNext old n = true := by
  simp [linkLostNext, h]

/-- An effect of a turn keeps the invariant. -/
theorem StepEffect.inv {s t : State} {a : Agent} {e : Inputs} (hs : s.Inv) (h : StepEffect s a e t) : t.Inv := by
  cases h with
  | idle => exact { hs with }
  | returns => exact { hs with closed := fun hr => ⟨(hs.closed hr).1, (hs.closed hr).2.1, rfl⟩ }
  | delivers bs _ hr hf =>
    exact { hs with
      rxq := by simpa using hf
      closed := fun h => by simp [hr] at h
      rderr := Nat.zero_le _
      lost := fun h => by cases h
      stopping := fun st hst => ⟨hr, (hs.stopping st hst).2.trans (by simp)⟩ }
  | failsRead hr =>
    exact { hs with
      rderr := rdErrNext_le _
      lost := fun h => linkLostNext_limit _ h }
  | feeds b rest o hr ho hst hq =>
    exact { hs with
      dec := fun _ => decStep_inv b (hs.dec hr)
      rxq := fits_mono (by simp [hq]) hs.rxq
      closed := fun h => by simp [hr] at h
      stopping := fun st h => by simp [hst] at h }
  | encodes => exact { hs with }
  | drains k =>
    exact { hs with
      txq := fits_mono (by simp) hs.txq
      closed := fun hr => by simp [hs.closed hr] }
  | starts _ _ _ hd hr =>
    exact { hs with
      dec := fun _ => init_inv
      dead := fun h => by simp [State.started, hd] at h
      rxq := fits_rx_one (Nat.zero_le _)
      txq := fits_tx_frame (Nat.zero_le _)
      closed := fun h => by cases h
      wlock := rfl
      rderr := Nat.zero_le _
      lost := fun h => by cases h
      stopping := fun st h => by simpa [hr] using (hs.stopping st h).1 }
  | failsStart _ _ _ _ hr =>
    exact { hs with
      dec := fun h => by cases h
      dead := fun _ => rfl
      rxq := fits_rx_one (Nat.zero_le _)
      txq := fits_tx_frame (Nat.zero_le _)
      closed := fun _ => ⟨rfl, rfl, (hs.closed hr).2.2⟩
      wlock := rfl
      stopping := fun st h => by simpa [hr] using (hs.stopping st h).1 }
  | registers => exact { hs with }
  | sends m hm hr hw hf =>
    exact { hs with
      txq := by simpa [length_encodeMsg hm] using hf
      closed := fun h => by simp [hr] at h }
  | failsSend m n _ hm hr hw hf =>
    exact { hs with
      txq := fits_mono (by simp [length_encodeMsg hm]) hf
      closed := fun h => by simp [hr] at h }
  | stops =>
    exact { hs with
      dec := fun h => by cases h
      dead := fun _ => rfl
      rxq := fits_rx_one (Nat.zero_le _)
      txq := fits_tx_frame (Nat.zero_le _)
      closed := fun _ => ⟨rfl, rfl, rfl⟩
      stopping := fun st h => by cases h }
  | isHeldUp n i o _ hr ho hn hi =>
    have hle : n ≤ s.rxq.length := hn fun st hst => (hs.stopping st hst).2
    exact { hs with
      dec := fun _ => decRun_inv _ (hs.dec hr)
      rxq := fits_mono (by simp) hs.rxq
      closed := fun h => by simp [hr] at h
      stopping := by
        rintro st ⟨⟩
        exact ⟨hr, by simpa only [List.length_drop] using Nat.sub_le_sub_right hle _⟩ }

/-- Settles O50, effect by effect (StepEffect.inv). -/
theorem everyStepKeepsTheInvariant : Obligations.EveryStepKeepsTheInvariant := by
  intro s t hs h
  obtain ⟨e, he⟩ := step_effect h
  exact he.inv hs

/-! ## The control bits -/

/-- Settles O55: only a start sets run, and it is refused on a dead instance. -/
theorem deadInstancesNeverRun : Obligations.DeadInstancesNeverRun := by
  intro s t hd hr h
  obtain ⟨e, he⟩ := step_effect h
  cases he with
  | starts _ _ _ hd' | failsStart _ _ _ hd' => simp [hd] at hd'
  | stops _ _ _ _ hr' | isHeldUp _ _ _ _ hr' => simp [hr] at hr'
  | _ => exact ⟨hd, hr⟩

/-- Settles O56: a failed read can only set link_lost, and of the others only a start writes it. -/
theorem onlyAStartClearsLinkLost : Obligations.OnlyAStartClearsLinkLost := by
  intro s t h hl hl'
  obtain ⟨e, he⟩ := step_effect h
  cases he with
  | starts transportId baudRate hreq _ hr =>
    obtain ⟨rest, hreq⟩ := hreq
    exact ⟨⟨transportId, baudRate, rest, hreq⟩, hr, rfl⟩
  | failsRead =>
    rw [State.failRead_linkLost, linkLostNext, hl] at hl'
    cases hl'
  | _ => cases hl.symm.trans hl'

/-- Settles O57: of all effects only a registration writes obs. -/
theorem onlyARegistrationChangesTheObserver : Obligations.OnlyARegistrationChangesTheObserver := by
  intro s t h hne
  obtain ⟨e, he⟩ := step_effect h
  cases he with
  | registers cb hreq =>
    obtain ⟨rest, hreq⟩ := hreq
    exact ⟨cb, rest, hreq, rfl⟩
  | _ => exact absurd rfl hne

/-- Settles O60: only a failed start and a failed send raise an error, to the agent whose turn it is. -/
theorem errorsAreRaisedToTheirCause : Obligations.ErrorsAreRaisedToTheirCause := by
  intro s t h
  obtain ⟨e, he⟩ := step_effect h
  cases he with
  | failsStart transportId baudRate hreq =>
    obtain ⟨rest, hreq⟩ := hreq
    exact .inr (.inl ⟨transportId, baudRate, rest, hreq, rfl⟩)
  | failsSend m n hreq =>
    obtain ⟨rest, hreq⟩ := hreq
    exact .inr (.inr ⟨m, rest, hreq, rfl⟩)
  | _ => exact .inl rfl

/-! ## The receive side -/

/-- Settles O54: a byte is fed only while run = 1, and a start initialises the decoder. -/
theorem nothingIsDecodedWhileStopped : Obligations.NothingIsDecodedWhileStopped := by
  intro s t hr ho h
  obtain ⟨e, he⟩ := step_effect h
  cases he with
  | feeds _ _ _ hr' | stops _ _ _ _ hr' | isHeldUp _ _ _ _ hr' => simp [hr] at hr'
  | starts | failsStart => exact ⟨rfl, ho, .inr rfl⟩
  | returns => exact ⟨rfl, rfl, .inl rfl⟩
  | _ => exact ⟨rfl, ho, .inl rfl⟩

/-- Settles O53: a byte is fed only while no observer runs, and then run is 1, so that no start is enabled. -/
theorem nothingIsDecodedWhileTheObserverRuns : Obligations.NothingIsDecodedWhileTheObserverRuns := by
  intro s t c hs hc h
  have hr : s.run = true := by
    by_contra hr
    have := (hs.closed (Bool.eq_false_of_not_eq_true hr)).2.2
    simp [hc] at this
  obtain ⟨e, he⟩ := step_effect h
  cases he with
  | feeds _ _ _ _ ho | stops _ _ _ _ _ ho | isHeldUp _ _ _ _ _ ho => simp [hc] at ho
  | starts _ _ _ _ hr' | failsStart _ _ _ _ hr' => simp [hr] at hr'
  | returns ht => exact ⟨rfl, rfl, List.prefix_rfl, hr, .inr ⟨ht, rfl⟩⟩
  | delivers bs => exact ⟨rfl, rfl, List.prefix_append _ _, hr, .inl hc⟩
  | _ => exact ⟨rfl, rfl, List.prefix_rfl, hr, .inl hc⟩

/-- Settles O52: a fed byte is a run of the decoder over one byte, a stop one over its residual bytes. -/
theorem receivedBytesKeepTheirOrder : Obligations.ReceivedBytesKeepTheirOrder := by
  intro s t hs h
  have hstop : ∀ st, s.stopping = some st → st.left ≤ s.rxq.length := fun st hst => (hs.stopping st hst).2
  obtain ⟨e, he⟩ := step_effect h
  cases he with
  | delivers bs hreq hr =>
    obtain ⟨rest, hreq⟩ := hreq
    exact .inr (.inl ⟨bs, rest, hreq, hr, rfl, rfl, rfl⟩)
  | feeds b rest o hr ho _ hq =>
    exact .inr (.inr (.inl ⟨1, le_rfl, by simp [hq], hr, ho, hr, .inl rfl, by simp [hq], by simp [hq, decRun],
      by simp [hq, decRun]⟩))
  | starts _ _ _ _ hr | failsStart _ _ _ _ hr =>
    have hq := (hs.closed hr).1
    exact .inl ⟨hq.symm, rfl, .inr ⟨hr, hq, rfl⟩⟩
  | stops d j k hreq hr ho hj =>
    obtain ⟨rest, hreq⟩ := hreq
    exact .inr (.inr (.inr ⟨j, rest, hreq, hj hstop, hr, ho, rfl, rfl, rfl⟩))
  | isHeldUp n i o hreq hr ho hn hi =>
    have hle := hn hstop
    exact .inr (.inr (.inl ⟨i + 1, by omega, by omega, hr, ho, hr, .inr hreq, rfl, rfl, rfl⟩))
  | _ => exact .inl ⟨rfl, rfl, .inl rfl⟩

/-- The calls that messages lead to are to the registered observer, one for each. -/
theorem mem_callsOf {o : Option CallbackId} {ms : List Message} {c : Call} (h : c ∈ callsOf o ms) :
    o = some c.observer ∧ c.msg ∈ ms := by
  cases o with
  | none => cases h
  | some f =>
    obtain ⟨m, hm, rfl⟩ := List.mem_map.1 h
    exact ⟨rfl, hm⟩

/-- Settles O58: the calls added are those of a run of the decoder (O52), from registers that meet the table. -/
theorem callsAreAddedWellFormed : Obligations.CallsAreAddedWellFormed := by
  intro s t hs h
  have hcalls : ∀ n, s.run = true → ∀ c ∈ callsOf s.obs (decRun s.dec (s.rxq.take n)).2,
      s.obs = some c.observer ∧ c.msg.wf = true := fun n hr c hc =>
    ⟨(mem_callsOf hc).1, decRun_wf _ (hs.dec hr) _ (mem_callsOf hc).2⟩
  obtain ⟨-, hc, -⟩ | ⟨_, _, -, -, -, hc, -⟩ | ⟨n, -, -, hr, -, -, -, -, -, hc⟩ | ⟨n, _, -, -, hr, -, -, -, hc⟩ :=
    receivedBytesKeepTheirOrder s t hs h
  · exact ⟨[], by simp [hc]⟩
  · exact ⟨[], by simp [hc]⟩
  · exact ⟨_, hc, hcalls n hr⟩
  · exact ⟨_, hc, hcalls n hr⟩

/-! ## The transmit side -/

/-- Settles O59: a send appends a first part of a frame, a drain and a stop send a first part of txq. -/
theorem transmittedBytesKeepTheirOrder : Obligations.TransmittedBytesKeepTheirOrder := by
  intro s t hs h
  obtain ⟨e, he⟩ := step_effect h
  cases he with
  | drains k =>
    exact ⟨s.txq.take k, [], rfl, List.take_prefix _ _, .inl rfl, .inl (by simp)⟩
  | starts _ _ _ _ hr | failsStart _ _ _ _ hr =>
    have hq := (hs.closed hr).2.1
    exact ⟨[], [], (List.append_nil _).symm, List.nil_prefix, .inl rfl, .inl (by rw [hq]; rfl)⟩
  | sends m hm =>
    exact ⟨[], encodeMsg m, (List.append_nil _).symm, List.nil_prefix,
      .inr ⟨m, _, hm, List.take_length.symm⟩, .inl rfl⟩
  | failsSend m n _ hm =>
    exact ⟨[], (encodeMsg m).take n, (List.append_nil _).symm, List.nil_prefix, .inr ⟨m, n, hm, rfl⟩, .inl rfl⟩
  | stops d j k _ hr =>
    exact ⟨s.txq.take k, [], rfl, List.take_prefix _ _, .inl rfl, .inr ⟨rfl, hr, rfl⟩⟩
  | _ => exact ⟨[], [], (List.append_nil _).symm, List.nil_prefix, .inl rfl, .inl (List.append_nil _)⟩

end Sys2Proof.Machine
end

section
/-! PROOFS. Runs: the pump and a returning observer in alternation, and a stop from its beginning to its end
(spec/42_transport.md R119, R129, spec/60_exceptions.md R160). -/

namespace Sys2Proof.Machine

/-! ## Consumed bytes -/

/-- The first i bytes of rxq have gone through the decoder, and each observer invocation they led to has returned. -/
def State.consumed (s : State) (i : Nat) : State :=
  { s with
    dec := (decRun s.dec (s.rxq.take i)).1
    rxq := s.rxq.drop i
    out := { s.out with calls := s.out.calls ++ callsOf s.obs (decRun s.dec (s.rxq.take i)).2 } }

/-- The messages of i + j bytes are those of the first i and then those of the next j. -/
theorem decRun_take_add (d : Dec) (q : List Byte) (i j : Nat) :
    decRun d (q.take (i + j)) =
      ((decRun (decRun d (q.take i)).1 ((q.drop i).take j)).1,
        (decRun d (q.take i)).2 ++ (decRun (decRun d (q.take i)).1 ((q.drop i).take j)).2) := by
  rw [List.take_add, decRun_append]

theorem consumed_zero (s : State) : s.consumed 0 = s := by simp [State.consumed, decRun]

theorem consumed_add (s : State) (i j : Nat) : (s.consumed i).consumed j = s.consumed (i + j) := by
  simp [State.consumed, decRun_take_add, callsOf_append]

/-- A fed byte whose observer invocation has returned is one byte consumed. -/
theorem feed_return_eq_consumed {s : State} {b : Byte} {rest : List Byte} (hq : s.rxq = b :: rest) :
    (State.feed { s with rxq := rest } b).obsReturn = { s.consumed 1 with obsRun := none } := by
  rw [feed_return]
  simp [State.consumed, hq, decRun]

theorem feed_env (s : State) (b : Byte) : (s.feed b).env = s.env := by
  obtain ⟨o, h⟩ := feed_shape s b
  rw [h]

/-! ## The turns of a schedule -/

theorem nextTurn_of_sched {s : State} {a : Agent} {l : List Agent} (h : s.env.sched = a :: l) :
    s.nextTurn = { s with turn := a, env := { s.env with sched := l } } := by
  simp [State.nextTurn, h]

/-- On a turn of the observer without a request no invocation is in progress any more. -/
theorem step_observer {s : State} {l : List Agent} (h : s.env.sched = .observer :: l)
    (hreq : takeRequest .observer s.env.pending = none) :
    step s = .next { s.obsReturn with turn := .observer, env := { s.env with sched := l } } := by
  have hn := nextTurn_of_sched h
  have ht : s.nextTurn.turn = .observer := by rw [hn]
  by_cases ho : s.obsRun = none
  · rw [step_passes (by simp [State.canAct, ht, ho]), hn, State.obsReturn, ← ho]
  · rw [step_ownTurn (canAct_observer ht ho) (by rwa [ht]), ownTurn, ht, hn]
    rfl

/-- On a turn of the pump without a request the head of rxq is fed. -/
theorem step_pump {s : State} {l : List Agent} {b : Byte} {rest : List Byte} (h : s.env.sched = .pump :: l)
    (hreq : takeRequest .pump s.env.pending = none) (hr : s.run = true) (ho : s.obsRun = none) (hs : s.stopping = none)
    (hq : s.rxq = b :: rest) :
    step s = .next (State.feed { s with rxq := rest, turn := .pump, env := { s.env with sched := l } } b) := by
  have hn := nextTurn_of_sched h
  rw [stepRunsTheDecodedByte s b rest _ (by rw [hn]) hr ho hs hreq hq rfl, hn]
  exact exec_decodeRxb { s with rxq := rest, turn := .pump, env := { s.env with sched := l } } b

/-- A turn of the pump and one of the observer consume one byte. -/
theorem run_pump_observer {s : State} {l : List Agent} (k : Nat) (h : s.env.sched = .pump :: .observer :: l)
    (hreq : s.env.pending = []) (hr : s.run = true) (ho : s.obsRun = none) (hs : s.stopping = none)
    (hq : 1 ≤ s.rxq.length) :
    Sys2Proof.core.run (k + 2) s =
      Sys2Proof.core.run k { s.consumed 1 with turn := .observer, env := { s.env with sched := l } } := by
  obtain ⟨b, rest, hq⟩ := List.exists_cons_of_length_pos hq
  rw [run_succ (step_pump h (by rw [hreq]; rfl) hr ho hs hq)]
  have henv := feed_env { s with rxq := rest, turn := .pump, env := { s.env with sched := .observer :: l } } b
  rw [run_succ (step_observer (l := l) (by rw [henv]) (by rw [henv]; simp [hreq, takeRequest])), henv,
    feed_return_eq_consumed (s := { s with turn := .pump, env := { s.env with sched := .observer :: l } }) hq, ← ho]
  rfl

/-- n pairs of turns of the pump and the observer consume n bytes. -/
theorem run_pump_observer_pairs (n : Nat) : ∀ {s : State} {later : List Agent},
    s.run = true → s.obsRun = none → s.stopping = none → s.env.pending = [] → n ≤ s.rxq.length →
    s.env.sched = (List.replicate n [Agent.pump, Agent.observer]).flatten ++ later →
    ∃ a, Sys2Proof.core.run (2 * n) s =
      .next { s.consumed n with turn := a, env := { s.env with sched := later } } := by
  induction n with
  | zero =>
    intro s later _ _ _ _ _ h
    obtain rfl : later = s.env.sched := h.symm
    exact ⟨s.turn, by rw [consumed_zero]; rfl⟩
  | succ n ih =>
    intro s later hr ho hs hp hq h
    rw [List.replicate_succ, List.flatten_cons] at h
    have hrun := run_pump_observer (2 * n) h hp hr ho hs (by omega)
    obtain ⟨a, ha⟩ := ih
      (s := { s.consumed 1 with
        turn := .observer
        env := { s.env with sched := (List.replicate n [Agent.pump, Agent.observer]).flatten ++ later } })
      hr ho hs hp (by simp [State.consumed]; omega) rfl
    refine ⟨a, (hrun.trans ha).trans ?_⟩
    rw [Nat.add_comm n 1, ← consumed_add]
    rfl

/-- Settles O51. -/
theorem thePumpFeedsTheBytesInOrder : Obligations.ThePumpFeedsTheBytesInOrder :=
  fun _ n _ hr ho hs hp hq h => run_pump_observer_pairs n hr ho hs hp hq h

/-! ## A stop -/

/-- Of the inputs, what R129 says of a stop speaks of the schedule and the requests only. -/
theorem Stopped.of_afterDraw {s t : State} {j k : Nat} (h : Stopped s.afterDraw t j k) : Stopped s t j k := by
  simpa [Stopped] using h

/-- A stop from a state in which i bytes have been consumed is one from the state before, with i bytes more. -/
theorem Stopped.of_consumed {s t : State} {i j k : Nat} (h : Stopped (s.consumed i) t j k) : Stopped s t (i + j) k := by
  simpa [Stopped, State.consumed, decRun_take_add, callsOf_append] using h

/-- A stop that begins with a choice in range performs that number of residual steps. -/
theorem exec_hStop_begins_of_choice {s : State} {j : Nat} {cs : List Nat} (hr : s.run = true) (hd : s.dead = false)
    (ht : s.turn ≠ .observer) (ho : s.obsRun = none) (hs : s.stopping = none) (hj : j ≤ s.rxq.length)
    (hch : s.env.choices = j :: cs) :
    exec .hStop s = .next (State.stopWith { s with env := { s.env with choices := cs } } j) := by
  rw [exec_hStop_begins hr hd ht ho hs, drawn_of_choice hch hj, afterDraw_of_choice hch]

/-- Settles O44: what the stop does with the number it draws or had left (stopWith_stopped, stopWith_heldUp). -/
theorem stopEndsTheConnection : Obligations.StopEndsTheConnection := by
  intro s hr hd ht ho
  refine ⟨fun hs => ?_, fun n _ hs => ?_⟩
  · have hx := exec_hStop_begins hr hd ht ho hs
    refine ⟨fun hc => ?_, fun hc => ⟨_, hx, stopWith_heldUp (s := s.afterDraw) ho hc⟩, fun j k cs hj hk hch hc => ?_,
      fun j cs hj hch hc => ?_⟩
    · obtain ⟨k, hk, hst⟩ := (stopWith_stopped (s := s.afterDraw) ho hc).1
      exact ⟨k, _, hk, hx, hst.of_afterDraw⟩
    · have hst := (stopWith_stopped (s := { s with env := { s.env with choices := k :: cs } }) ho hc).2 k cs hk rfl
      exact ⟨_, exec_hStop_begins_of_choice hr hd ht ho hs hj hch, hst⟩
    · exact ⟨_, exec_hStop_begins_of_choice hr hd ht ho hs hj hch,
        stopWith_heldUp (s := { s with env := { s.env with choices := cs } }) ho hc⟩
  · have hx := exec_hStop_resumes hr hd ht ho hs
    refine ⟨fun hc => ?_, fun hc => ⟨_, hx, stopWith_heldUp ho hc⟩⟩
    obtain ⟨⟨k, hk, hst⟩, hall⟩ := stopWith_stopped ho hc
    exact ⟨⟨k, _, hk, hx, hst⟩, fun k cs hk hch => ⟨_, hx, hall k cs hk hch⟩⟩

/-- A held-up stop is one whose bytes so far have been consumed, with the observer running on their message. -/
theorem HeldUp.exists_consumed {s t : State} {n : Nat} (h : HeldUp s t n) : ∃ i c, i < n ∧
    (callsOf s.obs (decRun s.dec (s.rxq.take (i + 1))).2).length = 1 ∧
    t = { s.consumed (i + 1) with
      obsRun := some c
      stopping := some { who := s.turn, left := n - (i + 1) }
      env := { s.env with pending := { agent := s.turn, act := .op .hStop } :: s.env.pending } } := by
  obtain ⟨i, m, f, hi, hf, -, hm, rfl⟩ := h
  have hcalls : callsOf s.obs (decRun s.dec (s.rxq.take (i + 1))).2 = [⟨f, m⟩] := by rw [hf, hm]; rfl
  exact ⟨i, ⟨f, m⟩, hi, by rw [hcalls]; rfl, by rw [State.consumed, hcalls]⟩

/-- On the turn of a caller whose request is a stop, a running block with no observer running performs it. -/
theorem step_hStop {s : State} {n : Nat} {l : List Agent} (h : s.env.sched = .caller n :: l)
    (hp : s.env.pending = [{ agent := .caller n, act := .op .hStop }]) :
    step s = exec .hStop { s with turn := .caller n, env := { s.env with sched := l, pending := [] } } := by
  have hn := nextTurn_of_sched h
  have hreq : takeRequest s.nextTurn.turn s.env.pending = some (.op .hStop, []) := by
    rw [hn, hp]
    simp [takeRequest]
  rw [step_performs (by rw [hn]; rfl) hreq, hn]
  rfl

/-- The observer returns, and the stop it held up goes on with the r residual steps it had left. -/
theorem run_heldUp {t : State} {n r : Nat} {l : List Agent} (q : Nat) (hr : t.run = true) (hd : t.dead = false)
    (hs : t.stopping = some { who := .caller n, left := r })
    (hp : t.env.pending = [{ agent := .caller n, act := .op .hStop }])
    (h : t.env.sched = .observer :: .caller n :: l) :
    Sys2Proof.core.run (q + 2) t =
      Sys2Proof.core.run q (State.stopWith
        { t with obsRun := none, turn := .caller n, env := { t.env with sched := l, pending := [] } } r) := by
  rw [run_succ (step_observer h (by rw [hp]; rfl))]
  have hstep := step_hStop (l := l)
    (s := { t.obsReturn with turn := .observer, env := { t.env with sched := .caller n :: l } }) rfl hp
  exact run_succ (hstep.trans (exec_hStop_resumes hr hd (by rintro ⟨⟩) rfl hs))

/-- A stop with j residual steps, followed by the turns of the observer and of the stopping caller in alternation, one
pair for each message. -/
theorem run_stopWith (c : Nat) : ∀ {s : State} {n j k : Nat} {cs : List Nat} {later : List Agent},
    s.run = true → s.dead = false → s.obsRun = none → s.turn = .caller n → s.env.pending = [] →
    (callsOf s.obs (decRun s.dec (s.rxq.take j)).2).length = c → k ≤ s.txq.length → s.env.choices = k :: cs →
    s.env.sched = (List.replicate c [Agent.observer, Agent.caller n]).flatten ++ later →
    ∃ t, Sys2Proof.core.run (2 * c) (s.stopWith j) = .next t ∧
      Stopped { s with env := { s.env with sched := later } } t j k ∧ t.env.choices = cs := by
  induction c with
  | zero =>
    intro s n j k cs later _ _ ho _ _ hc hk hch h
    obtain ⟨hst, hcs⟩ := (stopWith_stopped ho (List.length_eq_zero_iff.1 hc)).2 k cs hk hch
    obtain rfl : later = s.env.sched := h.symm
    exact ⟨_, rfl, hst, hcs⟩
  | succ c ih =>
    intro s n j k cs later hr hd ho ht hp hc hk hch h
    rw [List.replicate_succ, List.flatten_cons] at h
    obtain ⟨i, o, hi, h1, hheld⟩ := (stopWith_heldUp ho (List.ne_nil_of_length_eq_add_one hc)).exists_consumed
    obtain ⟨r, rfl⟩ : ∃ r, j = i + 1 + r := ⟨j - (i + 1), by omega⟩
    rw [decRun_take_add, callsOf_append, List.length_append, h1, Nat.add_comm 1, Nat.add_right_cancel_iff] at hc
    rw [ht, Nat.add_sub_cancel_left, hp] at hheld
    generalize hl : (List.replicate c [Agent.observer, Agent.caller n]).flatten = l at h ih
    obtain ⟨t, hrun, hst, hcs⟩ := ih
      (s := { s.consumed (i + 1) with
        obsRun := none, turn := .caller n, stopping := some { who := .caller n, left := r }
        env := { s.env with sched := l ++ later, pending := [] } })
      hr hd rfl rfl rfl hc hk hch (by rw [hl])
    refine ⟨t, ?_, ?_, hcs⟩
    · rw [hheld]
      refine (run_heldUp (n := n) (r := r) (l := l ++ later) (2 * c) ?_ ?_ ?_ ?_ ?_).trans hrun
      exacts [hr, hd, rfl, rfl, h]
    · rw [← ht, ← hp] at hst
      exact Stopped.of_consumed (s := { s with env := { s.env with sched := later } }) hst

/-- The turns of the caller and the observer in alternation, from the second on. -/
theorem sched_tail (a b : Agent) (c : Nat) (later : List Agent) :
    (List.replicate c [a, b]).flatten ++ a :: later = a :: ((List.replicate c [b, a]).flatten ++ later) := by
  induction c with
  | zero => rfl
  | succ c ih => simp [List.replicate_succ, ih]

/-- Settles O45: the stop's first turn draws j and performs stopWith j, and the rest is run_stopWith. -/
theorem stopEndsAfterItsObserversReturn : Obligations.StopEndsAfterItsObserversReturn := by
  intro s n j k cs later hr hd ho hs hp hj hk hch h
  generalize hc : (callsOf s.obs (decRun s.dec (s.rxq.take j)).2).length = c at h ⊢
  rw [sched_tail] at h
  generalize hl : (List.replicate c [Agent.observer, Agent.caller n]).flatten ++ later = l at h
  have hstep := (step_hStop h hp).trans (exec_hStop_begins_of_choice hr hd (by rintro ⟨⟩) ho hs hj hch)
  rw [run_succ hstep]
  exact run_stopWith c
    (s := { s with turn := .caller n, env := { s.env with sched := l, pending := [], choices := k :: cs } })
    hr hd ho rfl rfl hc hk rfl hl.symm

end Sys2Proof.Machine
end
